-- ==== Sys2Proof/Word.lean ====
section
/-! DEFINITION. The widths of the machine: bytes, instruction words, addresses, register and key numbers
(R15, R23, R29, R50, R10). -/

namespace Sys2Proof

/-- A byte: "A byte is 8 bits" (R15); the width of V0 to VF, DT, ST and of one memory cell. -/
abbrev Byte := BitVec 8

/-- An instruction word: "a word is 16 bits" (R15, R73). -/
abbrev Word := BitVec 16

/-- A 12-bit address: PC, I, stack entries and memory addresses (R29, R33, R36, R50). Its addition wraps
modulo 4096, which is the address arithmetic of R17 and R51. -/
abbrev Addr := BitVec 12

/-- A general register number 0..15 (R23). -/
abbrev Reg := Fin 16

/-- A key number 0..15 (R10). -/
abbrev Key := Fin 16

/-- Register VF, number 15, the carry register (R24). -/
abbrev vf : Reg := 15

end Sys2Proof
end

