-- ==== Sys2Proof/Config.lean ====
section
/-! DEFINITION. What an implementation fixes (the parameters of R5 and R6 that a running machine consults) and the
free values: the answers of the outside world, which nothing constrains. -/

namespace Sys2Proof

/-- What happens to a sprite at the display edge (R171). -/
inductive Edge where
  | wrap
  | clip
  deriving DecidableEq, Repr

/-- DISPLAY_MODEL (R6, D19): `oracle`, or `framebuffer(DISP_W, DISP_H, EDGE)`. -/
inductive DisplayModel where
  /-- The Display has no modelled state; each collision answer is free (R172). -/
  | oracle
  /-- The Display's pixels are modelled (R171). -/
  | framebuffer (width height : Nat) (edge : Edge)
  deriving DecidableEq, Repr

/-- TIMING_MODEL (R6, D16): `abstract`, or `ideal(F_HZ)`. -/
inductive TimingModel where
  /-- Whether a tick precedes the instruction cycle is a free bit (R163). -/
  | abstract
  /-- The exact schedule of R161 and R162. -/
  | ideal
  deriving DecidableEq, Repr

/-- The parameters a running machine consults (R6). FONT, INIT_MEM and RESET_REGS matter only at start-up and are
arguments of `Machine.boot`. -/
structure Params where
  fHz     : Nat
  display : DisplayModel
  timing  : TimingModel
  deriving DecidableEq, Repr

namespace Config

/-- The reference values (R5, R6): F_HZ 500, framebuffer(64, 32, wrap). TIMING_MODEL has no reference value in R6;
ideal is what the spec's programs run under. DESIGN CHOICE, unsafe (notes/assumptions/7, 8). -/
def reference : Params := ⟨500, .framebuffer 64 32 .wrap, .ideal⟩

/-- MEM_SIZE (R5). -/
def memSize : Nat := 4096
/-- STACK_DEPTH (R5, R36). -/
def stackDepth : Nat := 16
/-- PROG_BASE, the load address and the reset vector (R5, R43, R180). -/
def progBase : Addr := 0x200
/-- PROG_MAX (R5). -/
def progMax : Nat := 3584
/-- TICK_HZ (R5). -/
def tickHz : Nat := 60
/-- The font table's length in bytes: 16 glyphs of 5 bytes at FONT_BASE = 0 (R5, R55). -/
def fontSize : Nat := 80

/-! Free values (notes/assumptions/11): constants with no body. The argument is the number of the query. -/

/-- The answer of `Rand()` (R12, R175). -/
opaque freeRand : Nat → Byte
/-- The set of keys that are down at the moment of an Input query, bit k for key k (R173). -/
opaque freeKeysDown : Nat → BitVec 16
/-- The Input's choice among several keys that are down (R173, D23). -/
opaque freeKeyChoice : Nat → Key
/-- The collision answer of the oracle display for a draw with a set bit (R172). -/
opaque freeCollision : Nat → Bool
/-- The bit `tickDue` of abstract timing (R163). -/
opaque freeTick : Nat → Bool

end Config
end Sys2Proof
end

