-- ==== Sys2Proof/Syntax.lean ====
section
/-! DEFINITION. The 34 instructions (R2, R93), one constructor per row of spec/opcode_table.json. The operand types
are exactly the fields of R75 and R78: X and Y a register number 0..15, KK a byte, NNN a 12-bit address, N a count
0..15. A bit an instruction ignores (R77: the low nibble of families 5 and 9, the Y nibble of the shifts) is no
operand. -/

namespace Sys2Proof

inductive Instr where
  /-- 00E0, R98 -/
  | cls
  /-- 00EE, R99 -/
  | ret
  /-- 1NNN, R100 -/
  | jp (nnn : Addr)
  /-- 2NNN, R101 -/
  | call (nnn : Addr)
  /-- 3XKK, R102 -/
  | seVB (x : Reg) (kk : Byte)
  /-- 4XKK, R103 -/
  | sneVB (x : Reg) (kk : Byte)
  /-- 5XYz, R104 -/
  | seVV (x y : Reg)
  /-- 9XYz, R105 -/
  | sneVV (x y : Reg)
  /-- 6XKK, R108 -/
  | ldVB (x : Reg) (kk : Byte)
  /-- 7XKK, R109 -/
  | addVB (x : Reg) (kk : Byte)
  /-- 8XY0, R114 -/
  | ldVV (x y : Reg)
  /-- 8XY1, R115 -/
  | or (x y : Reg)
  /-- 8XY2, R116 -/
  | and (x y : Reg)
  /-- 8XY3, R117 -/
  | xor (x y : Reg)
  /-- 8XY4, R118 -/
  | addVV (x y : Reg)
  /-- 8XY5, R119 -/
  | sub (x y : Reg)
  /-- 8Xz6, R120 -/
  | shr (x : Reg)
  /-- 8XY7, R121 -/
  | subn (x y : Reg)
  /-- 8XzE, R122 -/
  | shl (x : Reg)
  /-- ANNN, R124 -/
  | ldIA (nnn : Addr)
  /-- BNNN, R125 -/
  | jpV0 (nnn : Addr)
  /-- CXKK, R126 -/
  | rnd (x : Reg) (kk : Byte)
  /-- DXYN, R127 -/
  | drw (x y : Reg) (n : Fin 16)
  /-- EX9E, R128 -/
  | skp (x : Reg)
  /-- EXA1, R129 -/
  | sknp (x : Reg)
  /-- FX07, R131 -/
  | ldVDT (x : Reg)
  /-- FX0A, R132 -/
  | ldVK (x : Reg)
  /-- FX15, R134 -/
  | ldDTV (x : Reg)
  /-- FX18, R135 -/
  | ldSTV (x : Reg)
  /-- FX1E, R136 -/
  | addIV (x : Reg)
  /-- FX29, R137 -/
  | ldFV (x : Reg)
  /-- FX33, R138 -/
  | ldBV (x : Reg)
  /-- FX55, R139 -/
  | ldMV (x : Reg)
  /-- FX65, R140 -/
  | ldVM (x : Reg)
  deriving DecidableEq, Repr

end Sys2Proof
end

