-- ==== Sys2Proof/WellFormed.lean ====
section
/-! DEFINITION. The checks on what is given to the machine from outside: an instruction word (R86 to R88), a program
image (R65, R66) and the parameters (R6, D25). A term of `Instr` needs no check: its operand types hold exactly the
values the fields of R78 can carry. -/

namespace Sys2Proof

/-- The undefined encodings, in the order and the wording of R86's list; written over the word's digits and not
through the decoder, so that the two can be compared. -/
def undefinedWord (w : Word) : Bool :=
  let n := w.toNat
  match n / 0x1000 with
  | 0x0 => n != 0x00E0 && n != 0x00EE
  | 0x8 => [0x8, 0x9, 0xA, 0xB, 0xC, 0xD, 0xF].contains (n % 0x10)
  | 0xE => !([0x9E, 0xA1].contains (n % 0x100))
  | 0xF => !([0x07, 0x0A, 0x15, 0x18, 0x1E, 0x29, 0x33, 0x55, 0x65].contains (n % 0x100))
  | _   => false

/-- A word that is one of the 34 instructions (R87, R88). -/
def wellFormedWord (w : Word) : Bool := !undefinedWord w

/-- A program image the loader accepts: at most PROG_MAX = 3584 bytes (R65, R66). -/
def wellFormedProgram (bytes : List Byte) : Bool := bytes.length ≤ Config.progMax

/-- Parameters a machine can run with: F_HZ an integer >= 1 (R6; F_HZ = 0 is refused, D25, U8), and a framebuffer
with at least one pixel, without which "mod DISP_W" and "mod DISP_H" of R171 name no pixel (DESIGN CHOICE, safe:
notes/assumptions/10). -/
def wellFormedParams (p : Params) : Bool :=
  1 ≤ p.fHz &&
  match p.display with
  | .oracle => true
  | .framebuffer w h _ => 1 ≤ w && 1 ≤ h

end Sys2Proof
end

