-- ==== Sys2Proof/Decode.lean ====
section
/-! DEFINITION. The fields of an instruction word (R75), the decoder (R79 to R88), the encoder, and the rows of the
opcode map (R93). -/

namespace Sys2Proof

/-! ### Fields (R75) -/

/-- F = w[15:12], the family. -/
def fieldF (w : Word) : BitVec 4 := w.extractLsb' 12 4
/-- X = w[11:8]. -/
def fieldX (w : Word) : Reg := (w.extractLsb' 8 4).toFin
/-- Y = w[7:4]. -/
def fieldY (w : Word) : Reg := (w.extractLsb' 4 4).toFin
/-- N = w[3:0]. -/
def fieldN (w : Word) : Fin 16 := (w.extractLsb' 0 4).toFin
/-- KK = w[7:0]. -/
def fieldKK (w : Word) : Byte := w.extractLsb' 0 8
/-- NNN = w[11:0]. -/
def fieldNNN (w : Word) : Addr := w.extractLsb' 0 12

/-! ### Decode (R79 to R88): one handler per family -/

/-- Family 0: "exactly two instructions, selected by the whole low 12 bits" (R80). -/
def decodeFamily0 (w : Word) : Option Instr :=
  match (fieldNNN w).toNat with
  | 0x0E0 => some .cls
  | 0x0EE => some .ret
  | _ => none

/-- Family 8: "sub-selected by low nibble" (R83). -/
def decodeFamily8 (w : Word) : Option Instr :=
  match (fieldN w).val with
  | 0x0 => some (.ldVV (fieldX w) (fieldY w))
  | 0x1 => some (.or (fieldX w) (fieldY w))
  | 0x2 => some (.and (fieldX w) (fieldY w))
  | 0x3 => some (.xor (fieldX w) (fieldY w))
  | 0x4 => some (.addVV (fieldX w) (fieldY w))
  | 0x5 => some (.sub (fieldX w) (fieldY w))
  | 0x6 => some (.shr (fieldX w))
  | 0x7 => some (.subn (fieldX w) (fieldY w))
  | 0xE => some (.shl (fieldX w))
  | _ => none

/-- Family E, selected by the low byte (R84). -/
def decodeFamilyE (w : Word) : Option Instr :=
  match (fieldKK w).toNat with
  | 0x9E => some (.skp (fieldX w))
  | 0xA1 => some (.sknp (fieldX w))
  | _ => none

/-- Family F, selected "by 8-bit low byte" (R85). -/
def decodeFamilyF (w : Word) : Option Instr :=
  match (fieldKK w).toNat with
  | 0x07 => some (.ldVDT (fieldX w))
  | 0x0A => some (.ldVK (fieldX w))
  | 0x15 => some (.ldDTV (fieldX w))
  | 0x18 => some (.ldSTV (fieldX w))
  | 0x1E => some (.addIV (fieldX w))
  | 0x29 => some (.ldFV (fieldX w))
  | 0x33 => some (.ldBV (fieldX w))
  | 0x55 => some (.ldMV (fieldX w))
  | 0x65 => some (.ldVM (fieldX w))
  | _ => none

/-- Decode "dispatches on F to one of 16 family handlers" (R79); `none` is "undefined" (R86). Families 1 to 7, 9 and
A to D have exactly one instruction each (R81, R82). -/
def decode (w : Word) : Option Instr :=
  match (fieldF w).toNat with
  | 0x0 => decodeFamily0 w
  | 0x1 => some (.jp (fieldNNN w))
  | 0x2 => some (.call (fieldNNN w))
  | 0x3 => some (.seVB (fieldX w) (fieldKK w))
  | 0x4 => some (.sneVB (fieldX w) (fieldKK w))
  | 0x5 => some (.seVV (fieldX w) (fieldY w))
  | 0x6 => some (.ldVB (fieldX w) (fieldKK w))
  | 0x7 => some (.addVB (fieldX w) (fieldKK w))
  | 0x8 => decodeFamily8 w
  | 0x9 => some (.sneVV (fieldX w) (fieldY w))
  | 0xA => some (.ldIA (fieldNNN w))
  | 0xB => some (.jpV0 (fieldNNN w))
  | 0xC => some (.rnd (fieldX w) (fieldKK w))
  | 0xD => some (.drw (fieldX w) (fieldY w) (fieldN w))
  | 0xE => decodeFamilyE w
  | _   => decodeFamilyF w

/-- The decoder over bytes as memory holds them: "most-significant byte first" (R53, R74); every instruction is
exactly two bytes (R73). -/
def decodeBytes : List Byte → Option (Instr × List Byte)
  | hi :: lo :: rest => (decode (hi ++ lo)).map (fun i => (i, rest))
  | _ => none

/-- The bytes, lowest address first, of an instruction numbered as spec/opcode_table.json numbers it. -/
def tableBytes (nbits w : Nat) : List Byte :=
  let word : Word := BitVec.ofNat 16 (w % 2 ^ nbits)
  [word.extractLsb' 8 8, word.extractLsb' 0 8]

/-- The instruction the decoder reads from an opcode-table word. -/
def decodeTableWord (nbits w : Nat) : Option Instr := (decodeBytes (tableBytes nbits w)).map (·.1)

/-! ### Encode, written from the formats of R77 and the opcode map of R93 -/

/-- A register number or count as a field of four bits. -/
def nibble (n : Fin 16) : BitVec 4 := BitVec.ofFin n

/-- Format ADDR: ffff aaaa aaaa aaaa. -/
def encodeAddr (f : BitVec 4) (nnn : Addr) : Word := f ++ nnn
/-- Formats REGIMM and REGSUB: ffff xxxx kkkk kkkk. -/
def encodeRegByte (f : BitVec 4) (x : Reg) (kk : Byte) : Word := (f ++ nibble x) ++ kk
/-- Formats REGREG, ALU and DRAW: ffff xxxx yyyy nnnn. -/
def encodeRegReg (f : BitVec 4) (x y n : Fin 16) : Word :=
  ((f ++ nibble x) ++ nibble y) ++ nibble n

/-- The word of an instruction; ignored bits are written 0. -/
def encode : Instr → Word
  | .cls => 0x00E0
  | .ret => 0x00EE
  | .jp nnn => encodeAddr 0x1 nnn
  | .call nnn => encodeAddr 0x2 nnn
  | .seVB x kk => encodeRegByte 0x3 x kk
  | .sneVB x kk => encodeRegByte 0x4 x kk
  | .seVV x y => encodeRegReg 0x5 x y 0
  | .sneVV x y => encodeRegReg 0x9 x y 0
  | .ldVB x kk => encodeRegByte 0x6 x kk
  | .addVB x kk => encodeRegByte 0x7 x kk
  | .ldVV x y => encodeRegReg 0x8 x y 0x0
  | .or x y => encodeRegReg 0x8 x y 0x1
  | .and x y => encodeRegReg 0x8 x y 0x2
  | .xor x y => encodeRegReg 0x8 x y 0x3
  | .addVV x y => encodeRegReg 0x8 x y 0x4
  | .sub x y => encodeRegReg 0x8 x y 0x5
  | .shr x => encodeRegReg 0x8 x 0 0x6
  | .subn x y => encodeRegReg 0x8 x y 0x7
  | .shl x => encodeRegReg 0x8 x 0 0xE
  | .ldIA nnn => encodeAddr 0xA nnn
  | .jpV0 nnn => encodeAddr 0xB nnn
  | .rnd x kk => encodeRegByte 0xC x kk
  | .drw x y n => encodeRegReg 0xD x y n
  | .skp x => encodeRegByte 0xE x 0x9E
  | .sknp x => encodeRegByte 0xE x 0xA1
  | .ldVDT x => encodeRegByte 0xF x 0x07
  | .ldVK x => encodeRegByte 0xF x 0x0A
  | .ldDTV x => encodeRegByte 0xF x 0x15
  | .ldSTV x => encodeRegByte 0xF x 0x18
  | .addIV x => encodeRegByte 0xF x 0x1E
  | .ldFV x => encodeRegByte 0xF x 0x29
  | .ldBV x => encodeRegByte 0xF x 0x33
  | .ldMV x => encodeRegByte 0xF x 0x55
  | .ldVM x => encodeRegByte 0xF x 0x65

/-- The bits of its word that an instruction ignores (`z` in R77): the low nibble of families 5 and 9 (R82) and the
Y nibble of SHR and SHL (R83). -/
def ignoredBits : Instr → Word
  | .seVV _ _ | .sneVV _ _ => 0x000F
  | .shr _ | .shl _ => 0x00F0
  | _ => 0x0000

/-! ### The opcode map (R93), with the match and mask of spec/opcode_table.json -/

/-- A row of the opcode map: a word belongs to it iff its bits under `mask` are `pattern`. -/
structure OpcodeRow where
  mnemonic : String
  pattern  : Word
  mask     : Word
  deriving DecidableEq, Repr

/-- Whether a word belongs to a row. -/
def OpcodeRow.covers (r : OpcodeRow) (w : Word) : Bool := (w &&& r.mask) == r.pattern

/-- The rows of families 0 to 7 and 9. -/
def opcodeRowsPlain : List OpcodeRow :=
  [⟨"CLS", 0x00E0, 0xFFFF⟩, ⟨"RET", 0x00EE, 0xFFFF⟩, ⟨"JP", 0x1000, 0xF000⟩, ⟨"CALL", 0x2000, 0xF000⟩,
   ⟨"SE_VB", 0x3000, 0xF000⟩, ⟨"SNE_VB", 0x4000, 0xF000⟩, ⟨"SE_VV", 0x5000, 0xF000⟩, ⟨"SNE_VV", 0x9000, 0xF000⟩,
   ⟨"LD_VB", 0x6000, 0xF000⟩, ⟨"ADD_VB", 0x7000, 0xF000⟩]

/-- The rows of family 8. -/
def opcodeRowsAlu : List OpcodeRow :=
  [⟨"LD_VV", 0x8000, 0xF00F⟩, ⟨"OR", 0x8001, 0xF00F⟩, ⟨"AND", 0x8002, 0xF00F⟩, ⟨"XOR", 0x8003, 0xF00F⟩,
   ⟨"ADD_VV", 0x8004, 0xF00F⟩, ⟨"SUB", 0x8005, 0xF00F⟩, ⟨"SHR", 0x8006, 0xF00F⟩, ⟨"SUBN", 0x8007, 0xF00F⟩,
   ⟨"SHL", 0x800E, 0xF00F⟩]

/-- The rows of families A to E. -/
def opcodeRowsIndexDrawKeys : List OpcodeRow :=
  [⟨"LD_IA", 0xA000, 0xF000⟩, ⟨"JP_V0", 0xB000, 0xF000⟩, ⟨"RND", 0xC000, 0xF000⟩, ⟨"DRW", 0xD000, 0xF000⟩,
   ⟨"SKP", 0xE09E, 0xF0FF⟩, ⟨"SKNP", 0xE0A1, 0xF0FF⟩]

/-- The rows of family F. -/
def opcodeRowsMisc : List OpcodeRow :=
  [⟨"LD_VDT", 0xF007, 0xF0FF⟩, ⟨"LD_VK", 0xF00A, 0xF0FF⟩, ⟨"LD_DTV", 0xF015, 0xF0FF⟩, ⟨"LD_STV", 0xF018, 0xF0FF⟩,
   ⟨"ADD_IV", 0xF01E, 0xF0FF⟩, ⟨"LD_FV", 0xF029, 0xF0FF⟩, ⟨"LD_BV", 0xF033, 0xF0FF⟩, ⟨"LD_MV", 0xF055, 0xF0FF⟩,
   ⟨"LD_VM", 0xF065, 0xF0FF⟩]

/-- The complete opcode map, 34 rows (R93). -/
def opcodeTable : List OpcodeRow :=
  opcodeRowsPlain ++ opcodeRowsAlu ++ opcodeRowsIndexDrawKeys ++ opcodeRowsMisc

/-- The unique identifier of an instruction (R94, the `mnemonic` column of R93). -/
def Instr.mnemonic : Instr → String
  | .cls => "CLS" | .ret => "RET" | .jp _ => "JP" | .call _ => "CALL"
  | .seVB _ _ => "SE_VB" | .sneVB _ _ => "SNE_VB" | .seVV _ _ => "SE_VV" | .sneVV _ _ => "SNE_VV"
  | .ldVB _ _ => "LD_VB" | .addVB _ _ => "ADD_VB"
  | .ldVV _ _ => "LD_VV" | .or _ _ => "OR" | .and _ _ => "AND" | .xor _ _ => "XOR"
  | .addVV _ _ => "ADD_VV" | .sub _ _ => "SUB" | .shr _ => "SHR" | .subn _ _ => "SUBN" | .shl _ => "SHL"
  | .ldIA _ => "LD_IA" | .jpV0 _ => "JP_V0" | .rnd _ _ => "RND" | .drw _ _ _ => "DRW"
  | .skp _ => "SKP" | .sknp _ => "SKNP"
  | .ldVDT _ => "LD_VDT" | .ldVK _ => "LD_VK" | .ldDTV _ => "LD_DTV" | .ldSTV _ => "LD_STV"
  | .addIV _ => "ADD_IV" | .ldFV _ => "LD_FV" | .ldBV _ => "LD_BV" | .ldMV _ => "LD_MV" | .ldVM _ => "LD_VM"

end Sys2Proof
end

