-- ==== Sys2Proof/Machine/State.lean ====
section
/-! DEFINITION. The machine's state (R49), its surroundings, the reasons a step can stop, and the state after reset
(R43 to R48). -/

namespace Sys2Proof.Machine

/-- The four run-time fatal error kinds (R141). -/
inductive FatalKind where
  | undefinedInstruction
  | stackUnderflow
  | stackOverflow
  | keyOutOfRange
  deriving DecidableEq, Repr

/-- Why the CORE is halted (R39): a fatal error with its report (kind, instruction word, PC), or a cancellation. -/
inductive HaltReason where
  | fatal (kind : FatalKind) (word : Word) (pc : Addr)
  | cancelled
  deriving DecidableEq, Repr

/-- RUN (R39). -/
inductive RunState where
  | running
  | halted (why : HaltReason)
  deriving DecidableEq, Repr

/-- The Audio device (R174). -/
inductive Audio where
  | paused
  | playing
  deriving DecidableEq, Repr

/-- A pixel of the Display: `P[x][y]` (R171). -/
structure Pixel where
  x : Nat
  y : Nat
  deriving DecidableEq, Repr

/-- The Display's pixel state: the pixels that are on, each once, in raster order (notes/assumptions/18). -/
abbrev Screen := List Pixel

/-- Memory: the cells whose byte differs from what an unlisted address reads as, addresses strictly rising. -/
abbrev Memory := List Host.Cell

/-- One event of "the CORE's output history" (R21): a port transaction with its answer, or the fatal report of the
host control port (R14, R148). -/
inductive Event where
  | blank
  | draw (x y : Byte) (rows : List Byte) (collision : Bool)
  | render
  | isKeyPressed (k : Key) (answer : Bool)
  | getPressedKey (answer : Option Key)
  | play
  | pause
  | rand (answer : Byte)
  | fatalReport (kind : FatalKind) (word : Word) (pc : Addr)
  deriving DecidableEq, Repr

/-- The Input at the moment of one query (R173): the keys that are down, bit k for key k, and the key it prefers to
report. -/
structure KeySample where
  down   : BitVec 16
  prefer : Key
  deriving DecidableEq, Repr

/-- What the outside world will answer (the model's own field: notes/assumptions/11, 13). Each list is read from its
front, one entry per query; when it is empty the answer is the opaque free value of Config at `draws`. -/
structure Inputs where
  rand        : List Byte
  keys        : List KeySample
  collision   : List Bool
  tick        : List Bool
  draws       : Nat
  /-- `some n`: the host asks for a cancellation, which falls before the n-th wakeup from now; `none`: it does not. -/
  cancelAfter : Option Nat
  deriving DecidableEq, Repr

/-- The CORE state: "The complete CORE state, and nothing else", the eleven elements of R49's table in its order. -/
structure CoreState where
  /-- MEM (R50) -/
  mem      : Memory
  /-- V0 to VF (R23) -/
  v        : Vector Byte 16
  /-- PC (R29) -/
  pc       : Addr
  /-- I (R33) -/
  i        : Addr
  /-- DT (R34) -/
  dt       : Byte
  /-- ST (R35) -/
  st       : Byte
  /-- STACK[0..15] (R36) -/
  stack    : Vector Addr 16
  /-- SP, 0..16 (R36) -/
  sp       : Fin 17
  /-- LATCH (R38) -/
  latch    : Option Key
  /-- RUN (R39) -/
  run      : RunState
  /-- LAST_TICK in sixtieths of a second, exact (R40; notes/assumptions/15) -/
  lastTick : Nat
  deriving DecidableEq, Repr

/-- The device state of R41, which R49 admits beside the CORE state. -/
structure DeviceState where
  /-- the Display's pixel state (R171) -/
  screen   : Screen
  /-- the Audio device (R174) -/
  audio    : Audio
  deriving DecidableEq, Repr

/-- What stands around the CORE and its devices and is no state of theirs: the arguments and the input and output
histories of a run, which the one-argument form of `step` leaves no other place for (notes/assumptions/26). -/
structure Surroundings where
  /-- the parameters of R6; no step changes them (notes/assumptions/10) -/
  params   : Params
  /-- the number of the next wakeup: the time base (R13, R162; notes/assumptions/16) -/
  wakeups  : Nat
  /-- what the ports will answer (notes/assumptions/11) -/
  inputs   : Inputs
  /-- the output history (R21), newest event first (notes/assumptions/14) -/
  history  : List Event
  deriving DecidableEq, Repr

/-- What a step maps: the state of R49, CORE and devices, in its surroundings. -/
structure State extends CoreState, DeviceState, Surroundings where
  deriving DecidableEq, Repr

/-- Reasons for a fault. There is none: every run-time error of the CORE is one of the four fatal kinds, whose entry
the spec describes (R148), so it is a next state with RUN halted (notes/assumptions/2), and no access can fault
(R51, R62, R154). -/
inductive Fault where
  deriving DecidableEq, Repr

/-- Reasons for a refusal. -/
inductive Refusal where
  /-- An instruction without a meaning in the model, refused by `exec`'s arm: safe. No arm uses it. -/
  | notModelled (mnemonic : String)
  /-- Raised by `step` alone, for parameters that are not well formed: F_HZ = 0, which R6 and D25 refuse (U8), or a
  framebuffer without a pixel. Safe: no run exists. -/
  | configuration
  deriving DecidableEq, Repr

/-- What a meaning answers. -/
abbrev Result := Host.Outcome State Fault Refusal

/-- The outside world at reset: nothing is scripted, so every answer is free, and the host does not cancel
(DESIGN CHOICE, notes/assumptions/11, 13). -/
def Inputs.none : Inputs := ⟨[], [], [], [], 0, .none⟩

/-- The machine right after reset with no program loaded (R43 to R48, R179). V, I, DT, ST: RESET_REGS, reference
value 0 (notes/assumptions/3). The stack's entries hold no observable value (R46; notes/assumptions/4). -/
def State.reset : State where
  mem      := []
  v        := Vector.replicate 16 0
  pc       := Config.progBase
  i        := 0
  dt       := 0
  st       := 0
  stack    := Vector.replicate 16 0
  sp       := 0
  latch    := none
  run      := .running
  lastTick := 0
  screen   := []
  audio    := .paused
  params   := Config.reference
  wakeups  := 0
  inputs   := Inputs.none
  history  := []

end Sys2Proof.Machine
end

