-- ==== Sys2Proof/Machine/Memory.lean ====
section
/-! DEFINITION. The memory unit (R50 to R60): what memory holds at reset, reads and writes of bytes and of
big-endian words, and the canonical form of the list that holds it. -/

namespace Sys2Proof.Machine

/-- The reference FONT: 16 glyphs of 5 bytes, glyph g at 5g (R56). PRESUMED, unsafe (notes/assumptions/6). -/
def referenceFont : Vector Byte 80 := #v[
  0xF0, 0x90, 0x90, 0x90, 0xF0,  0x20, 0x60, 0x20, 0x20, 0x70,  0xF0, 0x10, 0xF0, 0x80, 0xF0,
  0xF0, 0x10, 0xF0, 0x10, 0xF0,  0x90, 0x90, 0xF0, 0x10, 0x10,  0xF0, 0x80, 0xF0, 0x10, 0xF0,
  0xF0, 0x80, 0xF0, 0x90, 0xF0,  0xF0, 0x10, 0x20, 0x40, 0x40,  0xF0, 0x90, 0xF0, 0x90, 0xF0,
  0xF0, 0x90, 0xF0, 0x10, 0xF0,  0xF0, 0x90, 0xF0, 0x90, 0x90,  0xE0, 0x90, 0xE0, 0x90, 0xE0,
  0xF0, 0x80, 0x80, 0x80, 0xF0,  0xE0, 0x90, 0x90, 0x90, 0xE0,  0xF0, 0x80, 0xF0, 0x80, 0xF0,
  0xF0, 0x80, 0xF0, 0x80, 0x80]

/-- The reference INIT_MEM, 0x00 (R57). DESIGN CHOICE, unsafe (notes/assumptions/5). -/
def referenceInitMem : Byte := 0x00

/-- What an unlisted address reads as: the reset contents under the reference parameters (R55 to R57). -/
def Memory.unlisted (a : Nat) : Byte :=
  if h : a < 80 then referenceFont[a] else referenceInitMem

/-- The canonical form: addresses strictly rising, below MEM_SIZE, and no cell equal to what its address would read
as unlisted. -/
abbrev Memory.wf (m : Memory) : Prop :=
  m.Pairwise (fun c d => c.1 < d.1) ∧ ∀ c ∈ m, c.1 < 4096 ∧ c.2 ≠ Memory.unlisted c.1

/-- The byte listed for an address, if any. -/
def Memory.find : Memory → Nat → Option Byte
  | [], _ => none
  | c :: cs, a => if c.1 = a then some c.2 else Memory.find cs a

/-- Put a cell in its place by address. -/
def Memory.insert (a : Nat) (b : Byte) : Memory → Memory
  | [] => [(a, b)]
  | c :: cs => if a < c.1 then (a, b) :: c :: cs else c :: Memory.insert a b cs

/-- `read_u8` (R52); the address is 12 bits wide, so it is already modulo 4096 (R51). -/
def Memory.read (m : Memory) (a : Addr) : Byte :=
  (m.find a.toNat).getD (Memory.unlisted a.toNat)

/-- `write_u8` (R52): changes this byte and no other. -/
def Memory.write (m : Memory) (a : Addr) (b : Byte) : Memory :=
  let rest : Memory := m.filter (fun c => c.1 != a.toNat)
  if b = Memory.unlisted a.toNat then rest else Memory.insert a.toNat b rest

/-- `read_u16`: "most-significant byte first, second byte at addr+1 (mod 4096)" (R53). -/
def Memory.read16 (m : Memory) (a : Addr) : Word := m.read a ++ m.read (a + 1)

/-- `write_u16` (R54). -/
def Memory.write16 (m : Memory) (a : Addr) (w : Word) : Memory :=
  (m.write a (w.extractLsb' 8 8)).write (a + 1) (w.extractLsb' 0 8)

/-- Single-byte writes at a, a+1, ..., ascending and modulo 4096 (R64, R51). -/
def Memory.writeList (m : Memory) (a : Addr) : List Byte → Memory
  | [] => m
  | b :: bs => Memory.writeList (m.write a b) (a + 1) bs

end Sys2Proof.Machine
end

