-- ==== Sys2Proof/Machine/Operands.lean ====
section
/-! DEFINITION. The operand forms (R78, R95): registers, widened registers, the bytes at I, the glyph address and the
decimal digits of a register, a key number. -/

namespace Sys2Proof.Machine

/-- `V[r]` (R18). -/
def State.reg (s : State) (r : Reg) : Byte := s.v.get r

/-- `V[r] <- b` (R18). -/
def State.setReg (s : State) (r : Reg) (b : Byte) : State := { s with v := s.v.set r.val b r.isLt }

/-- `I <- a` (R33). -/
def State.setIndex (s : State) (a : Addr) : State := { s with i := a }

/-- `DT <- b` (R34). -/
def State.setDelay (s : State) (b : Byte) : State := { s with dt := b }

/-- `ST <- b` (R35). -/
def State.setSound (s : State) (b : Byte) : State := { s with st := b }

/-- `LATCH <- o` (R38). -/
def State.setLatch (s : State) (o : Option Key) : State := { s with latch := o }

/-- `MEM[a]` (R52). -/
def State.readByte (s : State) (a : Addr) : Byte := s.mem.read a

/-- `zext_12(v)` (R16). -/
def zext12 (b : Byte) : Addr := b.setWidth 12

/-- The address (I + k) mod 4096 (R63). -/
def State.atI (s : State) (k : Nat) : Addr := s.i + BitVec.ofNat 12 k

/-- The sprite rows of DRW: the n bytes at I, I+1, ..., in ascending order (R127). -/
def State.spriteRows (s : State) (n : Nat) : List Byte := (List.range n).map (fun k => s.readByte (s.atI k))

/-- The address of a font glyph, `(5 * v) mod 4096`, v used whole (R137). -/
def glyphAddr (v : Byte) : Addr := BitVec.ofNat 12 (5 * v.toNat)

/-- The decimal digits of a byte, hundreds first (R138). -/
def bcdDigits (v : Byte) : List Byte :=
  [BitVec.ofNat 8 (v.toNat / 100), BitVec.ofNat 8 (v.toNat / 10 % 10), BitVec.ofNat 8 (v.toNat % 10)]

/-- The registers V0 to VX in register-index order (R139). -/
def State.regsUpTo (s : State) (x : Reg) : List Byte :=
  ((List.finRange 16).filter (fun k => k ≤ x)).map s.reg

/-- A byte as a key number, if it is one: "the Input port accepts only key: 0–15" (R130). -/
def keyOf (b : Byte) : Option Key := if h : b.toNat < 16 then some ⟨b.toNat, h⟩ else none

end Sys2Proof.Machine
end

