-- ==== Sys2Proof/Machine/Flags.lean ====
section
/-! DEFINITION. The flag computations, all of which end in VF (R24, R25), and the write of a result with its flag. -/

namespace Sys2Proof.Machine

/-- A flag as VF holds it: exactly 0x00 or 0x01 (R27). -/
def flagByte (b : Bool) : Byte := if b then 0x01 else 0x00

/-- The carry of R118: "the unbounded sum exceeds 255". -/
def carryOut (a b : Byte) : Bool := 255 < a.toNat + b.toNat

/-- The no-borrow of `a - b` (R119, R121): `a >= b`. -/
def noBorrow (a b : Byte) : Bool := b.toNat ≤ a.toNat

/-- The bit SHR shifts out: `v & 1` (R120). -/
def bitOutRight (v : Byte) : Bool := v.getLsbD 0

/-- The bit SHL shifts out: `v >> 7` (R122). -/
def bitOutLeft (v : Byte) : Bool := v.getLsbD 7

/-- `(a + b) mod 256` (R17, R118). -/
def addBytes (a b : Byte) : Byte := BitVec.ofNat 8 (a.toNat + b.toNat)

/-- `(a - b + 256) mod 256` (R17, R119). -/
def subBytes (a b : Byte) : Byte := BitVec.ofNat 8 (a.toNat + 256 - b.toNat)

/-- V[X] first and VF last: with X = F the flag wins (R112). -/
def State.setRegFlag (s : State) (x : Reg) (result : Byte) (flag : Bool) : State :=
  (s.setReg x result).setReg vf (flagByte flag)

end Sys2Proof.Machine
end

