-- ==== Sys2Proof/Machine/Ops.lean ====
section
/-! DEFINITION. The shared operations: fetch, the outcomes of an instruction (R20, R90), the fatal entry (R148), the
call stack (R36), stores and loads at I (R138 to R140). -/

namespace Sys2Proof.Machine

/-- `w <- MemRead(PC, 2)` (R74). -/
def State.fetchWord (s : State) : Word := s.mem.read16 s.pc

/-! ### Outcomes (R20, R31, R90, R97) -/

/-- `fall`: the next PC is (PC + 2) mod 4096. -/
def State.fall (s : State) : State := { s with pc := s.pc + 2 }

/-- `goto t`. -/
def State.goto (s : State) (t : Addr) : State := { s with pc := t }

/-- `hold`: the next PC is PC itself (only the key-wait). -/
def State.hold (s : State) : State := s

/-- A skip is `goto (PC + 4) mod 4096`, a non-skip is `fall` (R97). -/
def State.skipIf (s : State) (c : Bool) : State := { s with pc := if c then s.pc + 4 else s.pc + 2 }

/-! ### Taking a fatal error (R22, R91, R148, R149) -/

/-- One event more in the output history (R21). -/
def State.emit (s : State) (e : Event) : State := { s with history := e :: s.history }

/-- The state a fatal error of kind k for word w leaves: RUN <- halted(fatal(k, w, PC)), the report on the host
control port, and nothing else. There is no return from it (R151). -/
def State.takeFatal (s : State) (k : FatalKind) (w : Word) : State :=
  { s with run := .halted (.fatal k w s.pc), history := .fatalReport k w s.pc :: s.history }

/-- `raise Fatal(k)` by the instruction i, whose word is `encode i`: the instructions that raise have no ignored bit
(notes/assumptions/19). -/
def raiseFatal (k : FatalKind) (i : Instr) (s : State) : Result := .next (s.takeFatal k (encode i))

/-- The cause codes of R141. -/
def FatalKind.code : FatalKind → Nat
  | .undefinedInstruction => 1
  | .stackUnderflow => 2
  | .stackOverflow => 3
  | .keyOutOfRange => 4

/-! ### The call stack (R36) -/

/-- `STACK[j]`; an index past the last entry (no rule reads one) reads 0. -/
def State.stackEntry (s : State) (j : Nat) : Addr := s.stack[j]?.getD 0

/-- Push, for SP < 16: `STACK[SP] <- a; SP <- SP + 1`. -/
def State.push (s : State) (a : Addr) : State :=
  { s with stack := s.stack.setIfInBounds s.sp.val a, sp := s.sp + 1 }

/-- Pop, for SP > 0: `SP <- SP - 1`; the result is `STACK[SP]`, that is `topEntry` before it. -/
def State.pop (s : State) : State := { s with sp := s.sp - 1 }

/-- The entry a pop answers: `STACK[SP - 1]`. -/
def State.topEntry (s : State) : Addr := s.stackEntry (s.sp.val - 1)

/-! ### Stores and loads at I -/

/-- Single-byte stores at I, I+1, ... (R138, R139). -/
def State.storeAtI (s : State) (bytes : List Byte) : State := { s with mem := s.mem.writeList s.i bytes }

/-- `for k = 0 .. X: V[k] <- MemRead((I + k) mod 4096, 1)` (R140). -/
def State.loadRegs (s : State) (x : Reg) : State :=
  ((List.finRange 16).filter (fun k => k ≤ x)).foldl (fun t k => t.setReg k (s.readByte (s.atI k.val))) s

end Sys2Proof.Machine
end

