-- ==== Sys2Proof/Machine/Display.lean ====
section
/-! DEFINITION. The Display's pixel state (R167 to R172): where a sprite's set bits lie, and the draw itself. -/

namespace Sys2Proof.Machine

/-- Raster order of pixels: by row, then by column. -/
def Pixel.before (p q : Pixel) : Bool := p.y < q.y || (p.y == q.y && p.x < q.x)

/-- Whether a pixel is on. -/
def Screen.isOn (scr : Screen) (p : Pixel) : Bool := scr.contains p

/-- "pixel toggles" (R168). -/
def Screen.toggle (p : Pixel) : Screen → Screen
  | [] => [p]
  | q :: qs => if p = q then qs else if p.before q then p :: q :: qs else q :: Screen.toggle p qs

/-- The canonical form: lit pixels in raster order, each once, inside the display; the oracle display has no
modelled state (R172). -/
def Screen.wf (d : DisplayModel) (scr : Screen) : Bool :=
  match d with
  | .oracle => scr == []
  | .framebuffer w h _ =>
    decide (scr.Pairwise (fun p q => p.before q)) && scr.all (fun p => decide (p.x < w) && decide (p.y < h))

/-- The columns c of a row's set bits, bit 7 of the row being column 0 (R168). -/
def rowColumns (row : Byte) : List Nat := (List.range 8).filter (fun c => row.getLsbD (7 - c))

/-- The set bits (r, c) of rows r, r+1, ..., in the order of R171's loops. -/
def setBitsFrom (r : Nat) : List Byte → List (Nat × Nat)
  | [] => []
  | row :: rest => (rowColumns row).map (fun c => (r, c)) ++ setBitsFrom (r + 1) rest

/-- The set bits of a sprite. -/
def setBits (rows : List Byte) : List (Nat × Nat) := setBitsFrom 0 rows

/-- The pixel of the set bit (r, c) of a sprite at origin (x, y), or none when the edge omits it (R171). -/
def pixelAt (w h : Nat) (edge : Edge) (x y : Byte) (rc : Nat × Nat) : Option Pixel :=
  match edge with
  | .wrap => some ⟨(x.toNat + rc.2) % w, (y.toNat + rc.1) % h⟩
  | .clip =>
    let px := x.toNat % w + rc.2
    let py := y.toNat % h + rc.1
    if px < w ∧ py < h then some ⟨px, py⟩ else none

/-- The pixels under a sprite's set bits. -/
def spritePixels (w h : Nat) (edge : Edge) (x y : Byte) (rows : List Byte) : List Pixel :=
  (setBits rows).filterMap (pixelAt w h edge x y)

/-- One turn of the loop of R171: note a hit, toggle the pixel. -/
def drawPixel (acc : Bool × Screen) (p : Pixel) : Bool × Screen :=
  (acc.1 || acc.2.isOn p, acc.2.toggle p)

/-- `draw(x, y, rows)` of the framebuffer, the loop of R171: the collision answer and the pixels it leaves. -/
def drawSprite (w h : Nat) (edge : Edge) (x y : Byte) (rows : List Byte) (scr : Screen) : Bool × Screen :=
  (spritePixels w h edge x y rows).foldl drawPixel (false, scr)

end Sys2Proof.Machine
end

