-- ==== Sys2Proof/Machine/Ports.lean ====
section
/-! DEFINITION. The port transactions (R8 to R12, R21): each issues one event of the output history and, for a query,
takes one answer of the outside world. A transaction answers its result and the state after it. -/

namespace Sys2Proof.Machine

/-! ### The answers (notes/assumptions/11, 12) -/

/-- The Input at the next query. -/
def Inputs.keySample (e : Inputs) : KeySample :=
  e.keys.head?.getD ⟨Config.freeKeysDown e.draws, Config.freeKeyChoice e.draws⟩

/-- The next random byte. -/
def Inputs.randByte (e : Inputs) : Byte := e.rand.head?.getD (Config.freeRand e.draws)

/-- The next free collision bit of the oracle display. -/
def Inputs.collisionBit (e : Inputs) : Bool := e.collision.head?.getD (Config.freeCollision e.draws)

/-- The next tick bit of abstract timing. -/
def Inputs.tickBit (e : Inputs) : Bool := e.tick.head?.getD (Config.freeTick e.draws)

/-- Whether key k is down in a sample (R173). -/
def KeySample.isDown (q : KeySample) (k : Key) : Bool := q.down.getLsbD k.val

/-- The key the Input reports (R173): `none` iff no key is down, otherwise one that is down: the preferred key if it
is, else the first one down after it, going round. -/
def KeySample.pressed (q : KeySample) : Option Key :=
  ((List.finRange 16).map (fun j => q.prefer + j)).find? q.isDown

/-! ### Display (R9, R167 to R172) -/

/-- `Display.blank()`: every pixel off (R167); the oracle display has no modelled state (R172). -/
def State.displayBlank (s : State) : State :=
  { s with
    screen := match s.params.display with | .oracle => s.screen | .framebuffer _ _ _ => []
    history := .blank :: s.history }

/-- The answer of `Display.draw(x, y, rows)`. Oracle: free, except that a draw without a set bit never collides
(R169, R172). -/
def State.drawAnswer (s : State) (x y : Byte) (rows : List Byte) : Bool :=
  match s.params.display with
  | .oracle => !(setBits rows).isEmpty && s.inputs.collisionBit
  | .framebuffer w h edge => (drawSprite w h edge x y rows s.screen).1

/-- The pixels `Display.draw(x, y, rows)` leaves. -/
def State.drawScreen (s : State) (x y : Byte) (rows : List Byte) : Screen :=
  match s.params.display with
  | .oracle => s.screen
  | .framebuffer w h edge => (drawSprite w h edge x y rows s.screen).2

/-- The outside world after a draw: the oracle display has used one answer. -/
def Inputs.afterDraw (e : Inputs) (d : DisplayModel) : Inputs :=
  match d with
  | .oracle => { e with collision := e.collision.tail, draws := e.draws + 1 }
  | .framebuffer _ _ _ => e

/-- `c <- Display.draw(x, y, rows)`. -/
def State.displayDraw (s : State) (x y : Byte) (rows : List Byte) : Bool × State :=
  (s.drawAnswer x y rows,
   { s with
     screen := s.drawScreen x y rows
     inputs := s.inputs.afterDraw s.params.display
     history := .draw x y rows (s.drawAnswer x y rows) :: s.history })

/-- `Display.render()` only presents the pixel state (R170). -/
def State.displayRender (s : State) : State := s.emit .render

/-! ### Audio (R11, R174) -/

/-- `Audio.play()`. -/
def State.audioPlay (s : State) : State := { s with audio := .playing, history := .play :: s.history }

/-- `Audio.pause()`. -/
def State.audioPause (s : State) : State := { s with audio := .paused, history := .pause :: s.history }

/-! ### Input (R10, R173) -/

/-- The outside world after an Input query. -/
def Inputs.afterKey (e : Inputs) : Inputs := { e with keys := e.keys.tail, draws := e.draws + 1 }

/-- `b <- Input.isKeyPressed(k)`. -/
def State.isKeyPressed (s : State) (k : Key) : Bool × State :=
  let b := s.inputs.keySample.isDown k
  (b, { s with inputs := s.inputs.afterKey, history := .isKeyPressed k b :: s.history })

/-- `o <- Input.getPressedKey()`. -/
def State.getPressedKey (s : State) : Option Key × State :=
  let o := s.inputs.keySample.pressed
  (o, { s with inputs := s.inputs.afterKey, history := .getPressedKey o :: s.history })

/-! ### Random bytes (R12, R175) -/

/-- The outside world after a random byte. -/
def Inputs.afterRand (e : Inputs) : Inputs := { e with rand := e.rand.tail, draws := e.draws + 1 }

/-- `r <- Rand()`. -/
def State.randByte (s : State) : Byte × State :=
  let r := s.inputs.randByte
  (r, { s with inputs := s.inputs.afterRand, history := .rand r :: s.history })

end Sys2Proof.Machine
end

