-- ==== Sys2Proof/Machine/Alu.lean ====
section
/-! DEFINITION. The ALU family, 8 (R110 to R123). Every operand is read from the state before the instruction (R110),
the result is written to V[X] and then the flag to VF (R112). -/

namespace Sys2Proof.Machine

/-- LD Vx, Vy: `V[X] <- V[Y]; fall`; no flag (R114, C3). -/
def execLdVV (x y : Reg) (s : State) : Result := .next (s.setReg x (s.reg y)).fall

/-- OR Vx, Vy: `V[X] <- vx | vy; VF <- 0; fall` (R115, R113). -/
def execOr (x y : Reg) (s : State) : Result := .next (s.setRegFlag x (s.reg x ||| s.reg y) false).fall

/-- AND Vx, Vy: `V[X] <- vx & vy; VF <- 0; fall` (R116, R113). -/
def execAnd (x y : Reg) (s : State) : Result := .next (s.setRegFlag x (s.reg x &&& s.reg y) false).fall

/-- XOR Vx, Vy: `V[X] <- vx ^ vy; VF <- 0; fall` (R117, R113). -/
def execXor (x y : Reg) (s : State) : Result := .next (s.setRegFlag x (s.reg x ^^^ s.reg y) false).fall

/-- ADD Vx, Vy: the sum modulo 256, VF the carry (R118). -/
def execAddVV (x y : Reg) (s : State) : Result :=
  .next (s.setRegFlag x (addBytes (s.reg x) (s.reg y)) (carryOut (s.reg x) (s.reg y))).fall

/-- SUB Vx, Vy: `vx - vy` modulo 256, VF the no-borrow bit (R119). -/
def execSub (x y : Reg) (s : State) : Result :=
  .next (s.setRegFlag x (subBytes (s.reg x) (s.reg y)) (noBorrow (s.reg x) (s.reg y))).fall

/-- SHR Vx: `V[X] <- vx >> 1; VF <- vx & 1; fall` (R120). -/
def execShr (x : Reg) (s : State) : Result :=
  .next (s.setRegFlag x (s.reg x >>> 1) (bitOutRight (s.reg x))).fall

/-- SUBN Vx, Vy: `vy - vx` modulo 256, VF the no-borrow bit (R121). -/
def execSubn (x y : Reg) (s : State) : Result :=
  .next (s.setRegFlag x (subBytes (s.reg y) (s.reg x)) (noBorrow (s.reg y) (s.reg x))).fall

/-- SHL Vx: `V[X] <- (vx << 1) mod 256; VF <- vx >> 7; fall` (R122). -/
def execShl (x : Reg) (s : State) : Result :=
  .next (s.setRegFlag x (s.reg x <<< 1) (bitOutLeft (s.reg x))).fall

end Sys2Proof.Machine
end

