-- ==== Sys2Proof/Machine/DrawKeys.lean ====
section
/-! DEFINITION. Draw sprite and key skips: families D and E (R127 to R130). -/

namespace Sys2Proof.Machine

/-- DRW Vx, Vy, nibble: the rows are read from memory, drawn at (V[X], V[Y]), and VF receives the collision bit
(R127). -/
def execDrw (x y : Reg) (n : Fin 16) (s : State) : Result :=
  let q := s.displayDraw (s.reg x) (s.reg y) (s.spriteRows n.val)
  .next (q.2.setReg vf (flagByte q.1)).fall

/-- SKP Vx: `if k > 15: raise Fatal(KeyOutOfRange)`, before any Input query; else skip iff key k is down (R128,
R130). -/
def execSkp (x : Reg) (s : State) : Result :=
  match keyOf (s.reg x) with
  | none => raiseFatal .keyOutOfRange (.skp x) s
  | some k => .next ((s.isKeyPressed k).2.skipIf (s.isKeyPressed k).1)

/-- SKNP Vx: as SKP, skipping iff key k is not down (R129, R130). -/
def execSknp (x : Reg) (s : State) : Result :=
  match keyOf (s.reg x) with
  | none => raiseFatal .keyOutOfRange (.sknp x) s
  | some k => .next ((s.isKeyPressed k).2.skipIf (!(s.isKeyPressed k).1))

end Sys2Proof.Machine
end

