-- ==== Sys2Proof/Machine/Flow.lean ====
section
/-! DEFINITION. Control flow and skips: families 0, 1, 2, 3, 4, 5 and 9 (R97 to R107). -/

namespace Sys2Proof.Machine

/-- CLS: `Display.blank(); fall` (R98). -/
def execCls (s : State) : Result := .next s.displayBlank.fall

/-- RET: `if SP == 0: raise Fatal(StackUnderflow); SP <- SP - 1; goto STACK[SP]` (R99). -/
def execRet (s : State) : Result :=
  if s.sp = 0 then raiseFatal .stackUnderflow .ret s else .next (s.pop.goto s.topEntry)

/-- JP addr: `goto NNN` (R100). -/
def execJp (nnn : Addr) (s : State) : Result := .next (s.goto nnn)

/-- CALL addr: `if SP == 16: raise Fatal(StackOverflow); STACK[SP] <- (PC + 2) mod 4096; SP <- SP + 1; goto NNN`
(R101). -/
def execCall (nnn : Addr) (s : State) : Result :=
  if s.sp.val = Config.stackDepth then raiseFatal .stackOverflow (.call nnn) s
  else .next ((s.push (s.pc + 2)).goto nnn)

/-- SE Vx, byte (R102). -/
def execSeVB (x : Reg) (kk : Byte) (s : State) : Result := .next (s.skipIf (s.reg x == kk))

/-- SNE Vx, byte (R103). -/
def execSneVB (x : Reg) (kk : Byte) (s : State) : Result := .next (s.skipIf (s.reg x != kk))

/-- SE Vx, Vy (R104). -/
def execSeVV (x y : Reg) (s : State) : Result := .next (s.skipIf (s.reg x == s.reg y))

/-- SNE Vx, Vy (R105). -/
def execSneVV (x y : Reg) (s : State) : Result := .next (s.skipIf (s.reg x != s.reg y))

end Sys2Proof.Machine
end

