-- ==== Sys2Proof/Machine/IndexJumpRandom.lean ====
section
/-! DEFINITION. Set index, jump with offset, random: families A, B and C (R124 to R126). -/

namespace Sys2Proof.Machine

/-- LD I, addr: `I <- NNN; fall` (R124). -/
def execLdIA (nnn : Addr) (s : State) : Result := .next (s.setIndex nnn).fall

/-- JP V0, addr: `goto (NNN + zext_12(V[0])) mod 4096` (R125). -/
def execJpV0 (nnn : Addr) (s : State) : Result := .next (s.goto (nnn + zext12 (s.reg 0)))

/-- RND Vx, byte: `r <- Rand(); V[X] <- r & KK; fall` (R126). -/
def execRnd (x : Reg) (kk : Byte) (s : State) : Result :=
  .next (s.randByte.2.setReg x (s.randByte.1 &&& kk)).fall

end Sys2Proof.Machine
end

