-- ==== Sys2Proof/Machine/LoadAdd.lean ====
section
/-! DEFINITION. Load and add immediate: families 6 and 7 (R108, R109). -/

namespace Sys2Proof.Machine

/-- LD Vx, byte: `V[X] <- KK; fall` (R108). -/
def execLdVB (x : Reg) (kk : Byte) (s : State) : Result := .next (s.setReg x kk).fall

/-- ADD Vx, byte: `V[X] <- (V[X] + KK) mod 256; fall`; no flag (R109). -/
def execAddVB (x : Reg) (kk : Byte) (s : State) : Result := .next (s.setReg x (addBytes (s.reg x) kk)).fall

end Sys2Proof.Machine
end

