-- ==== Sys2Proof/Machine/Misc.lean ====
section
/-! DEFINITION. The misc family, F (R131 to R140). -/

namespace Sys2Proof.Machine

/-- LD Vx, DT: `V[X] <- DT; fall` (R131). -/
def execLdVDT (x : Reg) (s : State) : Result := .next (s.setReg x s.dt).fall

/-- LD Vx, K: the blocking key-wait, press then release (R132). Exactly one query per execution; with no key latched
it holds, latching the key reported if there is one; with a key latched it holds until the answer is none, and then
writes the latched key, clears the latch and falls. -/
def execLdVK (x : Reg) (s : State) : Result :=
  let q := s.getPressedKey
  .next (match s.latch, q.1 with
    | none, none => q.2.hold
    | none, some k => (q.2.setLatch (some k)).hold
    | some k, none => ((q.2.setReg x (BitVec.ofNat 8 k.val)).setLatch none).fall
    | some _, some _ => q.2.hold)

/-- LD DT, Vx: `DT <- V[X]; fall` (R134). -/
def execLdDTV (x : Reg) (s : State) : Result := .next (s.setDelay (s.reg x)).fall

/-- LD ST, Vx: `ST <- V[X]; fall`; no Audio command (R135). -/
def execLdSTV (x : Reg) (s : State) : Result := .next (s.setSound (s.reg x)).fall

/-- ADD I, Vx: `I <- (I + zext_12(V[X])) mod 4096; fall`; VF unaffected (R136). -/
def execAddIV (x : Reg) (s : State) : Result := .next (s.setIndex (s.i + zext12 (s.reg x))).fall

/-- LD F, Vx: `I <- (5 * V[X]) mod 4096; fall` (R137). -/
def execLdFV (x : Reg) (s : State) : Result := .next (s.setIndex (glyphAddr (s.reg x))).fall

/-- LD B, Vx: the three decimal digits of V[X] at I, I+1, I+2 (R138). -/
def execLdBV (x : Reg) (s : State) : Result := .next (s.storeAtI (bcdDigits (s.reg x))).fall

/-- LD [I], Vx: V0 to VX at I, I+1, ...; I unchanged (R139). -/
def execLdMV (x : Reg) (s : State) : Result := .next (s.storeAtI (s.regsUpTo x)).fall

/-- LD Vx, [I]: V0 to VX from I, I+1, ...; I unchanged (R140). -/
def execLdVM (x : Reg) (s : State) : Result := .next (s.loadRegs x).fall

end Sys2Proof.Machine
end

