-- ==== Sys2Proof/Machine/Dispatch.lean ====
section
/-! DEFINITION. The dispatch of an instruction to its meaning (R79, R89). -/

namespace Sys2Proof.Machine

def exec (i : Instr) (s : State) : Host.Outcome State Fault Refusal :=
  match i with
  -- families 0, 1, 2, 3, 4, 5, 9
  | .cls => Sys2Proof.Machine.execCls s
  | .ret => Sys2Proof.Machine.execRet s
  | .jp nnn => Sys2Proof.Machine.execJp nnn s
  | .call nnn => Sys2Proof.Machine.execCall nnn s
  | .seVB x kk => Sys2Proof.Machine.execSeVB x kk s
  | .sneVB x kk => Sys2Proof.Machine.execSneVB x kk s
  | .seVV x y => Sys2Proof.Machine.execSeVV x y s
  | .sneVV x y => Sys2Proof.Machine.execSneVV x y s
  -- families 6, 7
  | .ldVB x kk => Sys2Proof.Machine.execLdVB x kk s
  | .addVB x kk => Sys2Proof.Machine.execAddVB x kk s
  -- family 8
  | .ldVV x y => Sys2Proof.Machine.execLdVV x y s
  | .or x y => Sys2Proof.Machine.execOr x y s
  | .and x y => Sys2Proof.Machine.execAnd x y s
  | .xor x y => Sys2Proof.Machine.execXor x y s
  | .addVV x y => Sys2Proof.Machine.execAddVV x y s
  | .sub x y => Sys2Proof.Machine.execSub x y s
  | .shr x => Sys2Proof.Machine.execShr x s
  | .subn x y => Sys2Proof.Machine.execSubn x y s
  | .shl x => Sys2Proof.Machine.execShl x s
  -- families A, B, C
  | .ldIA nnn => Sys2Proof.Machine.execLdIA nnn s
  | .jpV0 nnn => Sys2Proof.Machine.execJpV0 nnn s
  | .rnd x kk => Sys2Proof.Machine.execRnd x kk s
  -- families D, E
  | .drw x y n => Sys2Proof.Machine.execDrw x y n s
  | .skp x => Sys2Proof.Machine.execSkp x s
  | .sknp x => Sys2Proof.Machine.execSknp x s
  -- family F
  | .ldVDT x => Sys2Proof.Machine.execLdVDT x s
  | .ldVK x => Sys2Proof.Machine.execLdVK x s
  | .ldDTV x => Sys2Proof.Machine.execLdDTV x s
  | .ldSTV x => Sys2Proof.Machine.execLdSTV x s
  | .addIV x => Sys2Proof.Machine.execAddIV x s
  | .ldFV x => Sys2Proof.Machine.execLdFV x s
  | .ldBV x => Sys2Proof.Machine.execLdBV x s
  | .ldMV x => Sys2Proof.Machine.execLdMV x s
  | .ldVM x => Sys2Proof.Machine.execLdVM x s

end Sys2Proof.Machine
end

