-- ==== Sys2Proof/Machine/Timing.lean ====
section
/-! DEFINITION. The timers and the dual-rate timing controller (R155 to R165): the tick, when it is due, and the part
of a wakeup that comes before its instruction cycle. -/

namespace Sys2Proof.Machine

/-- `(t > 0) ? t - 1 : 0`, "saturating at 0, never wrapping" (R156). -/
def decrementTimer (t : Byte) : Byte := if t = 0 then 0 else t - 1

/-- Tick step 1: both timers in the same tick (R156). -/
def State.decrementTimers (s : State) : State :=
  { s with dt := decrementTimer s.dt, st := decrementTimer s.st }

/-- Tick step 2: `if ST > 0: Audio.play() else Audio.pause()` (R157). -/
def State.gateAudio (s : State) : State := if s.st = 0 then s.audioPause else s.audioPlay

/-- The tick: decrement, audio gate, render, in that order (R159). -/
def State.tick (s : State) : State := s.decrementTimers.gateAudio.displayRender

/-- Whether a tick is due at this wakeup. Ideal: `now - LAST_TICK >= 1/60` with `now = wakeups / F_HZ` and
`LAST_TICK = lastTick / 60`, multiplied out by 60 * F_HZ (R161, R162). Abstract: a free bit (R163). -/
def State.tickDue (s : State) : Bool :=
  match s.params.timing with
  | .ideal => (s.lastTick + 1) * s.params.fHz ≤ Config.tickHz * s.wakeups
  | .abstract => s.inputs.tickBit

/-- The outside world after the tick decision: abstract timing has used one bit. -/
def Inputs.afterTickDecision (e : Inputs) (t : TimingModel) : Inputs :=
  match t with
  | .ideal => e
  | .abstract => { e with tick := e.tick.tail, draws := e.draws + 1 }

/-- LAST_TICK after the tick decision: `LAST_TICK + 1/60`, in the ideal model only (R160, R161). -/
def State.lastTickAfter (s : State) (due : Bool) : Nat :=
  match s.params.timing with
  | .ideal => if due then s.lastTick + 1 else s.lastTick
  | .abstract => s.lastTick

/-- `if tickDue(now): tick()` (R160). -/
def State.tickIf (s : State) (due : Bool) : State := if due then s.tick else s

/-- What a wakeup does before its instruction cycle (R160): the tick if it is due; the time base then stands at the
next wakeup. -/
def State.beginWakeup (s : State) : State :=
  { s.tickIf s.tickDue with
    lastTick := s.lastTickAfter s.tickDue
    wakeups := s.wakeups + 1
    inputs := { s.inputs.afterTickDecision s.params.timing with cancelAfter := s.inputs.cancelAfter.map (· - 1) } }

/-- Whether the host's cancellation falls before this wakeup (R14, R166). -/
def State.cancelDue (s : State) : Bool := s.inputs.cancelAfter == some 0

/-- "then RUN <- halted(cancelled)", no report (R166). -/
def State.cancel (s : State) : State := { s with run := .halted .cancelled }

end Sys2Proof.Machine
end

