-- ==== Sys2Proof/Machine/Cycle.lean ====
section
/-! DEFINITION. The instruction cycle (R89) and the wakeup (R160). -/

namespace Sys2Proof.Machine

/-- One instruction cycle: fetch, decode, then Fatal(UndefinedInstruction) or the instruction's meaning (R89, R142). -/
def cycle (s : State) : Result :=
  match decode s.fetchWord with
  | none => .next (s.takeFatal .undefinedInstruction s.fetchWord)
  | some i => exec i s

/-- One wakeup: nothing when halted (R39, R92); a pending cancellation instead of the wakeup (R166); otherwise the
tick if due and then exactly one instruction cycle (R160). Parameters no machine can have are refused (R6, D25). -/
def wakeup (s : State) : Result :=
  if !wellFormedParams s.params then .refused .configuration
  else match s.run with
    | .halted _ => .next s
    | .running => if s.cancelDue then .next s.cancel else cycle s.beginWakeup

end Sys2Proof.Machine
end

