-- ==== Sys2Proof/Machine/Step.lean ====
section
/-! DEFINITION. One step of the machine: one wakeup (R7). -/

namespace Sys2Proof.Machine

/-- One step: one wakeup (R7, R160; notes/assumptions/1). -/
def step (s : State) : Host.Outcome State Fault Refusal := wakeup s

/-- The state with an opcode-table word stored, big-endian, where the next instruction cycle fetches: at PC. A
program comes to run by the host's load before wakeup 0 (R14, R65; notes/assumptions/20); this stands for it. -/
def State.withFetchWord (s : State) (nbits w : Nat) : State :=
  { s with mem := s.mem.write16 s.pc (BitVec.ofNat 16 (w % 2 ^ nbits)) }

end Sys2Proof.Machine
end

