-- ==== Sys2Proof/Machine/Boot.lean ====
section
/-! DEFINITION. Start-up (R179): memory creation (R55 to R57), the program loader (R65 to R67), and the state in which
wakeup 0 begins. It happens once per run, before the first step (R181). -/

namespace Sys2Proof.Machine

/-- The parameters that matter only at start-up (R6): FONT, INIT_MEM (per-byte values, D3) and RESET_REGS. -/
structure BootParams where
  font    : Vector Byte 80
  initMem : Addr → Byte
  regs    : Vector Byte 16
  index   : Addr
  delay   : Byte
  sound   : Byte

/-- The reference values (R6). -/
def BootParams.reference : BootParams :=
  ⟨referenceFont, fun _ => referenceInitMem, Vector.replicate 16 0, 0, 0, 0⟩

/-- What a byte of memory holds before the load: FONT at 0 to 79, INIT_MEM elsewhere (R55, R57, R179). -/
def BootParams.byteAt (b : BootParams) (a : Addr) : Byte :=
  if h : a.toNat < 80 then b.font[a.toNat] else b.initMem a

/-- Memory as it is created (R179 step 1). -/
def createMemory (b : BootParams) : Memory :=
  Memory.writeList [] 0 ((List.range 4096).map (fun a => b.byteAt (BitVec.ofNat 12 a)))

/-- The load-time errors (R66, R146). -/
inductive LoadError where
  /-- the image exceeds 3584 bytes -/
  | programTooLarge
  /-- the source cannot be read -/
  | programReadFailure
  deriving DecidableEq, Repr

/-- Why a run never begins. -/
inductive BootError where
  | load (e : LoadError)
  /-- F_HZ = 0, or a framebuffer without a pixel (D25, U8; notes/assumptions/10) -/
  | configuration
  deriving DecidableEq, Repr

/-- `load_program(bytes)`: the length check precedes any write, so a failed load changes nothing (R65 to R67). -/
def loadProgram (m : Memory) (bytes : List Byte) : Except LoadError Memory :=
  if wellFormedProgram bytes then .ok (m.writeList Config.progBase bytes) else .error .programTooLarge

/-- Start-up (R179) from a program source, which is `none` when it cannot be read (R66), in an outside world. -/
def boot (b : BootParams) (p : Params) (world : Inputs) (source : Option (List Byte)) : Except BootError State :=
  if !wellFormedParams p then .error .configuration
  else match source with
    | none => .error (.load .programReadFailure)
    | some bytes =>
      match loadProgram (createMemory b) bytes with
      | .error e => .error (.load e)
      | .ok m => .ok
        { State.reset with
          mem := m, v := b.regs, i := b.index, dt := b.delay, st := b.sound, params := p, inputs := world }

end Sys2Proof.Machine
end

