-- ==== Sys2Proof/Safety.lean ====
section
/-! DEFINITION. The vocabulary claims use: what a state shares with another (frames), which parts, registers and
transactions the spec gives each instruction, the states in which a wakeup runs an instruction, and the invariants. -/

namespace Sys2Proof.Machine

/-! ### Frames -/

/-- The parts of the CORE state (R49), of the devices (R41) and of the surroundings. -/
inductive Part where
  | regs | pc | index | delay | sound | stack | latch | run | memory | tickMark
  | screen | audio | params | timeBase | inputs | history
  deriving DecidableEq, Repr

/-- A part is the same in two states; registers, memory and the stack through the reads of one entry. -/
def Part.same (p : Part) (s t : State) : Prop :=
  match p with
  | .regs => ∀ r, t.reg r = s.reg r
  | .pc => t.pc = s.pc
  | .index => t.i = s.i
  | .delay => t.dt = s.dt
  | .sound => t.st = s.st
  | .stack => t.sp = s.sp ∧ ∀ j, t.stackEntry j = s.stackEntry j
  | .latch => t.latch = s.latch
  | .run => t.run = s.run
  | .memory => ∀ a, t.readByte a = s.readByte a
  | .tickMark => t.lastTick = s.lastTick
  | .screen => t.screen = s.screen
  | .audio => t.audio = s.audio
  | .params => t.params = s.params
  | .timeBase => t.wakeups = s.wakeups
  | .inputs => t.inputs = s.inputs
  | .history => t.history = s.history

/-- Every part but the named ones is the same. -/
def SameBut (ps : List Part) (s t : State) : Prop := ∀ p, p ∉ ps → p.same s t

/-- Every general register but the named ones is the same. -/
def RegsSameBut (rs : List Reg) (s t : State) : Prop := ∀ r, r ∉ rs → t.reg r = s.reg r

/-- Every byte of memory but those at the named addresses is the same. -/
def BytesSameBut (as : List Addr) (s t : State) : Prop := ∀ a, a ∉ as → t.readByte a = s.readByte a

/-- The n addresses (I + k) mod 4096, k = 0 .. n-1 (R63). -/
def addrsAtI (s : State) (n : Nat) : List Addr :=
  (List.range n).map (fun k => BitVec.ofNat 12 ((s.i.toNat + k) % 4096))

/-- `fall` (R20). -/
def FallsThrough (s t : State) : Prop := t.pc.toNat = (s.pc.toNat + 2) % 4096

/-- The byte at address a after n bytes f 0, f 1, ... are stored at I, I+1, ... (modulo 4096, R63): the one stored there,
or the byte that was there before. -/
def ByteAfterStore (s : State) (n : Nat) (f : Nat → Nat) (a b : Nat) : Prop :=
  (∃ k < n, (s.i.toNat + k) % 4096 = a ∧ b = f k) ∨
  ((∀ k < n, (s.i.toNat + k) % 4096 ≠ a) ∧ b = (s.readByte (BitVec.ofNat 12 a)).toNat)

/-- The word fetched in t is the one that stands there after those n bytes are stored in s, big-endian (R71, R74). -/
def FetchSeesStore (s t : State) (n : Nat) (f : Nat → Nat) : Prop :=
  ByteAfterStore s n f t.pc.toNat (t.fetchWord.toNat / 256) ∧
  ByteAfterStore s n f ((t.pc.toNat + 1) % 4096) (t.fetchWord.toNat % 256)

/-- A register instruction of the ALU: it completes with `result` in V[X] (unless X = F, where the flag overwrites it,
R112) and `flag` in VF, falls through and changes nothing else. -/
def ResultAndFlag (i : Instr) (x : Reg) (s : State) (result flag : Nat) : Prop :=
  ∃ t, exec i s = .next t ∧ (x ≠ vf → (t.reg x).toNat = result) ∧ (t.reg vf).toNat = flag ∧
    RegsSameBut [x, vf] s t ∧ FallsThrough s t ∧ SameBut [.regs, .pc] s t

/-- The state a fatal error of kind k for word w leaves (R148). -/
def FatalTaken (k : FatalKind) (w : Word) (s t : State) : Prop :=
  t.run = .halted (.fatal k w s.pc) ∧ t.history = .fatalReport k w s.pc :: s.history ∧
    SameBut [.run, .history] s t

/-! ### What the spec gives each instruction -/

/-- The general registers an instruction may write: R28 and R25. -/
def destinations : Instr → List Reg
  | .ldVB x _ | .addVB x _ | .ldVV x _ | .rnd x _ | .ldVDT x | .ldVK x => [x]
  | .or x _ | .and x _ | .xor x _ | .addVV x _ | .sub x _ | .shr x | .subn x _ | .shl x => [x, vf]
  | .drw _ _ _ => [vf]
  | .ldVM x => (List.finRange 16).filter (fun k => k ≤ x)
  | .cls | .ret | .jp _ | .call _ | .seVB _ _ | .sneVB _ _ | .seVV _ _ | .sneVV _ _
  | .ldIA _ | .jpV0 _ | .skp _ | .sknp _ | .ldDTV _ | .ldSTV _ | .addIV _ | .ldFV _ | .ldBV _ | .ldMV _ => []

/-- The instructions that write VF as a side effect (R25). -/
def writesFlag : Instr → Bool
  | .or _ _ | .and _ _ | .xor _ _ | .addVV _ _ | .sub _ _ | .shr _ | .subn _ _ | .shl _ | .drw _ _ _ => true
  | _ => false

/-- The parts of the state an instruction may change, besides the registers of `destinations`: PC (R30, R31), I (R33),
DT (R34), ST (R35), the stack (R37), LATCH (R38), memory (R63, R68), the device state (R41), and, for the four
instructions that can raise one, RUN and the report of a fatal error (R147, R148). -/
def changes : Instr → List Part
  | .cls => [.pc, .screen, .history]
  | .ret | .call _ => [.pc, .stack, .run, .history]
  | .jp _ | .jpV0 _ | .seVB _ _ | .sneVB _ _ | .seVV _ _ | .sneVV _ _ => [.pc]
  | .ldVB _ _ | .addVB _ _ | .ldVV _ _ | .or _ _ | .and _ _ | .xor _ _ | .addVV _ _ | .sub _ _ | .shr _ | .subn _ _
  | .shl _ | .ldVDT _ | .ldVM _ => [.pc, .regs]
  | .ldIA _ | .addIV _ | .ldFV _ => [.pc, .index]
  | .rnd _ _ => [.pc, .regs, .inputs, .history]
  | .drw _ _ _ => [.pc, .regs, .screen, .inputs, .history]
  | .skp _ | .sknp _ => [.pc, .inputs, .run, .history]
  | .ldVK _ => [.pc, .regs, .latch, .inputs, .history]
  | .ldDTV _ => [.pc, .delay]
  | .ldSTV _ => [.pc, .sound]
  | .ldBV _ | .ldMV _ => [.pc, .memory]

/-- The transactions an instruction may issue (R9, R10, R12, R14, R147): `blank` only from CLS, `draw` only from DRW,
`isKeyPressed` only from SKP and SKNP, `getPressedKey` only from the key-wait, `Rand` only from RND, a fatal report
only from the instruction that can raise that kind; `render`, `play` and `pause` from none. -/
def mayIssue (i : Instr) (e : Event) : Bool :=
  match e with
  | .blank => match i with | .cls => true | _ => false
  | .draw _ _ _ _ => match i with | .drw _ _ _ => true | _ => false
  | .isKeyPressed _ _ => match i with | .skp _ | .sknp _ => true | _ => false
  | .getPressedKey _ => match i with | .ldVK _ => true | _ => false
  | .rand _ => match i with | .rnd _ _ => true | _ => false
  | .render | .play | .pause => false
  | .fatalReport .stackUnderflow _ _ => match i with | .ret => true | _ => false
  | .fatalReport .stackOverflow _ _ => match i with | .call _ => true | _ => false
  | .fatalReport .keyOutOfRange _ _ => match i with | .skp _ | .sknp _ => true | _ => false
  | .fatalReport .undefinedInstruction _ _ => false

/-! ### Runs -/

/-- The states in which a wakeup performs an instruction cycle (R160): parameters a machine can have, RUN running, no
cancellation due. -/
def State.Ready (s : State) : Prop :=
  wellFormedParams s.params = true ∧ s.run = .running ∧ s.cancelDue = false

/-- Audio commands of an output history. -/
def audioCommands (h : List Event) : Nat := h.countP (fun e => e = .play ∨ e = .pause)

/-- Renders of an output history. -/
def renders (h : List Event) : Nat := h.countP (fun e => e = .render)

/-- The set bit (r, c) of a sprite at origin (x, y) lies on pixel p of the display (R168, R171). -/
def SetBitOn (w h : Nat) (edge : Edge) (x y : Byte) (rows : List Byte) (p : Pixel) : Prop :=
  ∃ r c row, rows[r]? = some row ∧ c < 8 ∧ row.getLsbD (7 - c) = true ∧
    match edge with
    | .wrap => p = ⟨(x.toNat + c) % w, (y.toNat + r) % h⟩
    | .clip => p = ⟨x.toNat % w + c, y.toNat % h + r⟩ ∧ p.x < w ∧ p.y < h

/-! ### Invariants -/

/-- Memory and the pixel state are in their canonical form, and parameters are those a machine can have. -/
def State.Canonical (s : State) : Prop :=
  wellFormedParams s.params = true ∧ s.mem.wf ∧ Screen.wf s.params.display s.screen = true

/-- A fatal report names the halted instruction: its PC is the PC, its word the word memory holds there (R148, R149). -/
def State.ReportPrecise (s : State) : Prop :=
  ∀ k w p, s.run = .halted (.fatal k w p) → p = s.pc ∧ w = s.fetchWord

/-- Under ideal timing, the ticks in the wakeups before this one: floor(60 * n / F_HZ) for F_HZ >= 60, one a wakeup
from wakeup 1 on for F_HZ < 60 (R164), n the last wakeup's number. -/
def State.OnSchedule (s : State) : Prop :=
  s.params.timing = .ideal →
    s.lastTick = if 60 ≤ s.params.fHz then 60 * (s.wakeups - 1) / s.params.fHz else s.wakeups - 1

end Sys2Proof.Machine
end

