-- ==== Sys2Proof/Certificates/Slice0/Obligations.lean ====
section
/-! DEFINITION. The statements for the provers. Each is declared under Obligations, listed in OBLIGATIONS.json, and
cites the rule of the spec it formalises. -/

open Sys2Proof Sys2Proof.Machine

/-! ### Encoding and decoding (30_encoding.md) -/

/-- A few words, written out from the opcode map, decode to the instruction they stand for, and words outside it to
none. A sanity statement. -/
def Obligations.WrittenWordsDecode : Prop :=
  decode 0x00E0 = some .cls ∧ decode 0x00EE = some .ret ∧ decode 0x1204 = some (.jp 0x204) ∧
  decode 0x3A7F = some (.seVB 0xA 0x7F) ∧ decode 0x512F = some (.seVV 1 2) ∧ decode 0x6A05 = some (.ldVB 10 5) ∧
  decode 0x81A6 = some (.shr 1) ∧ decode 0x8235 = some (.sub 2 3) ∧ decode 0xBFFF = some (.jpV0 0xFFF) ∧
  decode 0xD015 = some (.drw 0 1 5) ∧ decode 0xE59E = some (.skp 5) ∧ decode 0xF265 = some (.ldVM 2) ∧
  decode 0x01E0 = none ∧ decode 0x801F = none ∧ decode 0xE59F = none ∧ decode 0xF000 = none

/-- Decode and encode agree: the word of every instruction, with every operand at every value, decodes to it. -/
def Obligations.DecodeOfEncodeIsIdentity : Prop := ∀ i : Instr, decode (encode i) = some i

/-- The other direction: a word that decodes is the instruction's word, up to the bits the instruction ignores
(R77, R82, R83). -/
def Obligations.EncodeOfDecodeClearsIgnoredBits : Prop :=
  ∀ (w : Word) (i : Instr), decode w = some i → encode i = w &&& ~~~ignoredBits i

/-- The decoder refuses exactly the words of the list of undefined encodings (R86). -/
def Obligations.DecodeRefusesExactlyUndefinedWords : Prop :=
  ∀ w : Word, decode w = none ↔ undefinedWord w = true

/-- Every word belongs to the one row of the opcode map whose instruction it decodes to, or to no row and then it is
undefined (R88, R93): no two rows overlap. -/
def Obligations.OpcodeMapAgreesWithDecode : Prop :=
  ∀ w : Word, (opcodeTable.filter (fun r => r.covers w)).map (·.mnemonic) = ((decode w).map Instr.mnemonic).toList

/-! ### Memory, loader, start-up (20_memory.md, 70_reset_and_hazards.md) -/

/-- The fetch reads MEM[PC] and MEM[(PC + 1) mod 4096], the byte at the lower address as bits 15:8 (R74). -/
def Obligations.FetchIsBigEndianAndWraps : Prop :=
  ∀ s : State, s.fetchWord.toNat =
    256 * (s.readByte s.pc).toNat + (s.readByte (BitVec.ofNat 12 ((s.pc.toNat + 1) % 4096))).toNat

/-- write_u16 stores bits 15:8 at addr and bits 7:0 at (addr + 1) mod 4096 and changes no other byte, and read_u16
gives the word back at every address, 0xFFF included (R53, R54, C2). -/
def Obligations.WordWriteThenReadRoundTrips : Prop :=
  ∀ (m : Memory) (a : Addr) (w : Word),
    (m.write16 a w).read16 a = w ∧
    ((m.write16 a w).read a).toNat = w.toNat / 256 ∧
    ((m.write16 a w).read (BitVec.ofNat 12 ((a.toNat + 1) % 4096))).toNat = w.toNat % 256 ∧
    ∀ c : Addr, c ≠ a → c.toNat ≠ (a.toNat + 1) % 4096 → (m.write16 a w).read c = m.read c

/-- load_program copies byte k to 0x200 + k for an image of at most 3584 bytes and changes no other byte; a larger
image fails with ProgramTooLarge and gives no memory to run on (R65 to R67). -/
def Obligations.LoaderCopiesTheImage : Prop :=
  ∀ (m : Memory) (bytes : List Byte),
    (bytes.length ≤ 3584 → ∃ m', loadProgram m bytes = .ok m' ∧
      (∀ (k : Nat) (h : k < bytes.length), m'.read (BitVec.ofNat 12 (0x200 + k)) = bytes[k]) ∧
      ∀ a : Addr, (a.toNat < 0x200 ∨ 0x200 + bytes.length ≤ a.toNat) → m'.read a = m.read a) ∧
    (3584 < bytes.length → loadProgram m bytes = .error .programTooLarge)

/-- Start-up: from parameters a machine can have and a readable image of at most 3584 bytes, the run begins in the
state the start-up sequence gives: FONT at 0x000 to 0x04F, the program at 0x200, INIT_MEM elsewhere, PC = 0x200,
RESET_REGS in V, I, DT and ST, stack empty, LATCH none, RUN running, LAST_TICK 0, pixels off, Audio paused, wakeup 0;
an unreadable source or a larger image begins no run (R179, R43 to R48, R55, R57, R66). -/
def Obligations.StartUpSequence : Prop :=
  ∀ (b : BootParams) (p : Params) (world : Inputs), wellFormedParams p = true →
    (∀ bytes : List Byte, bytes.length ≤ 3584 → ∃ s, boot b p world (some bytes) = .ok s ∧
      s.pc = 0x200 ∧ (∀ r : Reg, s.reg r = b.regs.get r) ∧ s.i = b.index ∧ s.dt = b.delay ∧ s.st = b.sound ∧
      s.sp = 0 ∧ s.latch = none ∧ s.run = .running ∧ s.lastTick = 0 ∧ s.wakeups = 0 ∧
      s.screen = [] ∧ s.audio = .paused ∧ s.params = p ∧ s.inputs = world ∧ s.history = [] ∧
      (∀ k : Fin 80, s.readByte (BitVec.ofNat 12 k.val) = b.font.get k) ∧
      (∀ (k : Nat) (h : k < bytes.length), s.readByte (BitVec.ofNat 12 (0x200 + k)) = bytes[k]) ∧
      ∀ a : Addr, 80 ≤ a.toNat → (a.toNat < 0x200 ∨ 0x200 + bytes.length ≤ a.toNat) → s.readByte a = b.initMem a) ∧
    boot b p world none = .error (.load .programReadFailure) ∧
    ∀ bytes : List Byte, 3584 < bytes.length → boot b p world (some bytes) = .error (.load .programTooLarge)

/-- State.reset is the start-up state of the reference parameters with no program and nothing scripted. The reference
values are the model's choice (notes/assumptions/3 to 9, 11). -/
def Obligations.ResetIsReferenceStartUp : Prop :=
  boot BootParams.reference Config.reference Inputs.none (some []) = .ok State.reset

/-- What reset leaves where the spec gives the value: PC, SP, LATCH, RUN, LAST_TICK, pixels, Audio (R43, R46 to R48,
R171, R174); and reset is canonical, on schedule and has no report, the invariants of the statements below. -/
def Obligations.ResetValuesAndInvariants : Prop :=
  State.reset.pc = 0x200 ∧ State.reset.sp = 0 ∧ State.reset.latch = none ∧ State.reset.run = .running ∧
  State.reset.lastTick = 0 ∧ State.reset.screen = [] ∧ State.reset.audio = .paused ∧
  State.reset.Canonical ∧ State.reset.ReportPrecise ∧ State.reset.OnSchedule ∧ State.reset.Ready

/-! ### Control flow and skips (40_flow.md) -/

/-- CLS: its word, one blank command, every pixel of a framebuffer off (R98, R167). That the oracle display's list of
pixels stays as it is, is the model's choice (notes/assumptions/18). -/
def Obligations.ClearBlanksTheDisplay : Prop :=
  decode 0x00E0 = some .cls ∧
  ∀ s : State, ∃ t, exec .cls s = .next t ∧ t.history = .blank :: s.history ∧
    (∀ w h e, s.params.display = .framebuffer w h e → ∀ p : Pixel, t.screen.isOn p = false) ∧
    (s.params.display = .oracle → t.screen = s.screen) ∧
    FallsThrough s t ∧ SameBut [.pc, .screen, .history] s t

/-- RET: `if SP == 0: raise Fatal(StackUnderflow); SP <- SP - 1; goto STACK[SP]`, and nothing else changes (R99). -/
def Obligations.ReturnPopsOrUnderflows : Prop :=
  decode 0x00EE = some .ret ∧
  ∀ s : State,
    (0 < s.sp.val → ∃ t, exec .ret s = .next t ∧ t.sp.val = s.sp.val - 1 ∧ t.pc = s.stackEntry (s.sp.val - 1) ∧
      (∀ j, t.stackEntry j = s.stackEntry j) ∧ SameBut [.pc, .stack] s t) ∧
    (s.sp.val = 0 → ∃ t, exec .ret s = .next t ∧ FatalTaken .stackUnderflow 0x00EE s t)

/-- CALL: `if SP == 16: raise Fatal(StackOverflow); STACK[SP] <- (PC + 2) mod 4096; SP <- SP + 1; goto NNN` (R101). -/
def Obligations.CallPushesOrOverflows : Prop :=
  ∀ nnn : Addr,
    decode (BitVec.ofNat 16 (0x2000 + nnn.toNat)) = some (.call nnn) ∧
    ∀ s : State,
      (s.sp.val < 16 → ∃ t, exec (.call nnn) s = .next t ∧ t.pc = nnn ∧ t.sp.val = s.sp.val + 1 ∧
        (t.stackEntry s.sp.val).toNat = (s.pc.toNat + 2) % 4096 ∧
        (∀ j, j ≠ s.sp.val → t.stackEntry j = s.stackEntry j) ∧ SameBut [.pc, .stack] s t) ∧
      (s.sp.val = 16 → ∃ t, exec (.call nnn) s = .next t ∧
        FatalTaken .stackOverflow (BitVec.ofNat 16 (0x2000 + nnn.toNat)) s t)

/-- A CALL on a stack that is not full, followed by a RET, comes back to the word after the CALL with the depth and
every held entry as before (R36 "last-in first-out", R99, R101). -/
def Obligations.ReturnUndoesCall : Prop :=
  ∀ (nnn : Addr) (s : State), s.sp.val < 16 → ∃ t u, exec (.call nnn) s = .next t ∧ exec .ret t = .next u ∧
    u.pc.toNat = (s.pc.toNat + 2) % 4096 ∧ u.sp = s.sp ∧
    (∀ j, j < s.sp.val → u.stackEntry j = s.stackEntry j) ∧ SameBut [.pc, .stack] s u

/-- JP addr: `goto NNN`; JP V0, addr: `goto (NNN + zext_12(V[0])) mod 4096`, the offset register always V0 (R100,
R125). -/
def Obligations.JumpsGoToTheirTarget : Prop :=
  ∀ nnn : Addr,
    decode (BitVec.ofNat 16 (0x1000 + nnn.toNat)) = some (.jp nnn) ∧
    decode (BitVec.ofNat 16 (0xB000 + nnn.toNat)) = some (.jpV0 nnn) ∧
    ∀ s : State,
      (∃ t, exec (.jp nnn) s = .next t ∧ t.pc = nnn ∧ SameBut [.pc] s t) ∧
      (∃ t, exec (.jpV0 nnn) s = .next t ∧ t.pc.toNat = (nnn.toNat + (s.reg 0).toNat) % 4096 ∧ SameBut [.pc] s t)

/-- SE Vx, byte and SNE Vx, byte: PC + 4 or PC + 2 modulo 4096, and nothing else changes (R97, R102, R103). -/
def Obligations.ImmediateSkips : Prop :=
  ∀ (x : Reg) (kk : Byte),
    decode (BitVec.ofNat 16 (0x3000 + 0x100 * x.val + kk.toNat)) = some (.seVB x kk) ∧
    decode (BitVec.ofNat 16 (0x4000 + 0x100 * x.val + kk.toNat)) = some (.sneVB x kk) ∧
    ∀ s : State,
      (∃ t, exec (.seVB x kk) s = .next t ∧ SameBut [.pc] s t ∧
        t.pc.toNat = (s.pc.toNat + if (s.reg x).toNat = kk.toNat then 4 else 2) % 4096) ∧
      (∃ t, exec (.sneVB x kk) s = .next t ∧ SameBut [.pc] s t ∧
        t.pc.toNat = (s.pc.toNat + if (s.reg x).toNat = kk.toNat then 2 else 4) % 4096)

/-- SE Vx, Vy and SNE Vx, Vy, for every low nibble z of the word (R82, R97, R104, R105). -/
def Obligations.RegisterSkips : Prop :=
  ∀ (x y : Reg),
    (∀ z : Fin 16, decode (BitVec.ofNat 16 (0x5000 + 0x100 * x.val + 0x10 * y.val + z.val)) = some (.seVV x y) ∧
      decode (BitVec.ofNat 16 (0x9000 + 0x100 * x.val + 0x10 * y.val + z.val)) = some (.sneVV x y)) ∧
    ∀ s : State,
      (∃ t, exec (.seVV x y) s = .next t ∧ SameBut [.pc] s t ∧
        t.pc.toNat = (s.pc.toNat + if (s.reg x).toNat = (s.reg y).toNat then 4 else 2) % 4096) ∧
      (∃ t, exec (.sneVV x y) s = .next t ∧ SameBut [.pc] s t ∧
        t.pc.toNat = (s.pc.toNat + if (s.reg x).toNat = (s.reg y).toNat then 2 else 4) % 4096)

/-! ### Load and add immediate (41_load_add.md) -/

/-- LD Vx, byte: `V[X] <- KK; fall`; ADD Vx, byte: `V[X] <- (V[X] + KK) mod 256; fall`; VF is written only as the
destination (R108, R109). -/
def Obligations.LoadAndAddImmediate : Prop :=
  ∀ (x : Reg) (kk : Byte),
    decode (BitVec.ofNat 16 (0x6000 + 0x100 * x.val + kk.toNat)) = some (.ldVB x kk) ∧
    decode (BitVec.ofNat 16 (0x7000 + 0x100 * x.val + kk.toNat)) = some (.addVB x kk) ∧
    ∀ s : State,
      (∃ t, exec (.ldVB x kk) s = .next t ∧ t.reg x = kk ∧ RegsSameBut [x] s t ∧ FallsThrough s t ∧
        SameBut [.regs, .pc] s t) ∧
      (∃ t, exec (.addVB x kk) s = .next t ∧
        (t.reg x).toNat = ((s.reg x).toNat + kk.toNat) % 256 ∧ RegsSameBut [x] s t ∧ FallsThrough s t ∧
        SameBut [.regs, .pc] s t)

/-! ### ALU (42_alu.md) -/

/-- LD Vx, Vy: `V[X] <- V[Y]; fall`; no flag (R114). -/
def Obligations.AssignLeavesFlag : Prop :=
  ∀ (x y : Reg),
    decode (BitVec.ofNat 16 (0x8000 + 0x100 * x.val + 0x10 * y.val)) = some (.ldVV x y) ∧
    ∀ s : State, ∃ t, exec (.ldVV x y) s = .next t ∧ t.reg x = s.reg y ∧ RegsSameBut [x] s t ∧ FallsThrough s t ∧
      SameBut [.regs, .pc] s t

/-- OR, AND, XOR: the bitwise result in V[X], VF <- 0 last (R115 to R117, R112, R113). -/
def Obligations.BitwiseOperationsClearFlag : Prop :=
  ∀ (x y : Reg),
    decode (BitVec.ofNat 16 (0x8001 + 0x100 * x.val + 0x10 * y.val)) = some (.or x y) ∧
    decode (BitVec.ofNat 16 (0x8002 + 0x100 * x.val + 0x10 * y.val)) = some (.and x y) ∧
    decode (BitVec.ofNat 16 (0x8003 + 0x100 * x.val + 0x10 * y.val)) = some (.xor x y) ∧
    ∀ s : State,
      ResultAndFlag (.or x y) x s ((s.reg x).toNat ||| (s.reg y).toNat) 0 ∧
      ResultAndFlag (.and x y) x s ((s.reg x).toNat &&& (s.reg y).toNat) 0 ∧
      ResultAndFlag (.xor x y) x s ((s.reg x).toNat ^^^ (s.reg y).toNat) 0

/-- ADD Vx, Vy: `(a+b) mod 256`, VF = 1 iff `a+b > 255`, no carry-in (R118, R26). -/
def Obligations.AddSetsCarry : Prop :=
  ∀ (x y : Reg),
    decode (BitVec.ofNat 16 (0x8004 + 0x100 * x.val + 0x10 * y.val)) = some (.addVV x y) ∧
    ∀ s : State, ResultAndFlag (.addVV x y) x s (((s.reg x).toNat + (s.reg y).toNat) % 256)
      (if 255 < (s.reg x).toNat + (s.reg y).toNat then 1 else 0)

/-- SUB and SUBN: the difference modulo 256, VF = 1 iff no borrow, equal operands giving 1 (R119, R121). -/
def Obligations.SubtractionsSetNoBorrow : Prop :=
  ∀ (x y : Reg),
    decode (BitVec.ofNat 16 (0x8005 + 0x100 * x.val + 0x10 * y.val)) = some (.sub x y) ∧
    decode (BitVec.ofNat 16 (0x8007 + 0x100 * x.val + 0x10 * y.val)) = some (.subn x y) ∧
    ∀ s : State,
      ResultAndFlag (.sub x y) x s (((s.reg x).toNat + 256 - (s.reg y).toNat) % 256)
        (if (s.reg y).toNat ≤ (s.reg x).toNat then 1 else 0) ∧
      ResultAndFlag (.subn x y) x s (((s.reg y).toNat + 256 - (s.reg x).toNat) % 256)
        (if (s.reg x).toNat ≤ (s.reg y).toNat then 1 else 0)

/-- SHR and SHL, for every Y nibble z of the word: V[X] shifted by one, VF the bit shifted out (R120, R122, R83). -/
def Obligations.ShiftsSetBitShiftedOut : Prop :=
  ∀ (x : Reg),
    (∀ z : Fin 16, decode (BitVec.ofNat 16 (0x8006 + 0x100 * x.val + 0x10 * z.val)) = some (.shr x) ∧
      decode (BitVec.ofNat 16 (0x800E + 0x100 * x.val + 0x10 * z.val)) = some (.shl x)) ∧
    ∀ s : State,
      ResultAndFlag (.shr x) x s ((s.reg x).toNat / 2) ((s.reg x).toNat % 2) ∧
      ResultAndFlag (.shl x) x s ((s.reg x).toNat * 2 % 256) ((s.reg x).toNat / 128)

/-! ### Index, jump with offset, random (43_index_jump_random.md) and the index instructions of 45_misc.md -/

/-- RND Vx, byte: `r <- Rand(); V[X] <- r & KK; fall`, one transaction, r the answer of the random-byte port (R126); that
the port answers `inputs.randByte` and moves on by `afterRand` is the model's form of it (notes/assumptions/11). -/
def Obligations.RandomAndImmediate : Prop :=
  ∀ (x : Reg) (kk : Byte),
    decode (BitVec.ofNat 16 (0xC000 + 0x100 * x.val + kk.toNat)) = some (.rnd x kk) ∧
    ∀ s : State, ∃ t, exec (.rnd x kk) s = .next t ∧
      (t.reg x).toNat = s.inputs.randByte.toNat &&& kk.toNat ∧ t.history = .rand s.inputs.randByte :: s.history ∧
      t.inputs = s.inputs.afterRand ∧ RegsSameBut [x] s t ∧ FallsThrough s t ∧
      SameBut [.regs, .pc, .inputs, .history] s t

/-- Every byte can be the random port's answer, in every state (R126 "every byte is possible", R175), and answers are
taken one by one: that they come from a list in State is the model's choice (notes/assumptions/11). -/
def Obligations.RandomPortCanAnswerEveryByte : Prop :=
  ∀ (x : Reg) (kk r : Byte) (s : State), ∃ t,
    exec (.rnd x kk) { s with inputs := { s.inputs with rand := r :: s.inputs.rand } } = .next t ∧
      t.reg x = r &&& kk ∧ t.inputs.rand = s.inputs.rand

/-- LD I, addr: `I <- NNN; fall`; ADD I, Vx: `I <- (I + zext_12(V[X])) mod 4096; fall`, VF unaffected; LD F, Vx:
`I <- (5 * V[X]) mod 4096; fall`, V[X] used whole (R124, R136, R137). -/
def Obligations.IndexInstructions : Prop :=
  (∀ nnn : Addr,
    decode (BitVec.ofNat 16 (0xA000 + nnn.toNat)) = some (.ldIA nnn) ∧
    ∀ s : State, ∃ t, exec (.ldIA nnn) s = .next t ∧ t.i = nnn ∧ FallsThrough s t ∧ SameBut [.index, .pc] s t) ∧
  ∀ (x : Reg),
    decode (BitVec.ofNat 16 (0xF01E + 0x100 * x.val)) = some (.addIV x) ∧
    decode (BitVec.ofNat 16 (0xF029 + 0x100 * x.val)) = some (.ldFV x) ∧
    ∀ s : State,
      (∃ t, exec (.addIV x) s = .next t ∧ t.i.toNat = (s.i.toNat + (s.reg x).toNat) % 4096 ∧ FallsThrough s t ∧
        SameBut [.index, .pc] s t) ∧
      (∃ t, exec (.ldFV x) s = .next t ∧ t.i.toNat = 5 * (s.reg x).toNat % 4096 ∧ FallsThrough s t ∧
        SameBut [.index, .pc] s t)

/-! ### Draw and keys (44_draw_keys.md, 60_exceptions.md section 7) -/

/-- DRW Vx, Vy, nibble: the n bytes at I, I+1, ... (modulo 4096) are drawn at (V[X], V[Y]) in one transaction, VF
receives the collision bit c of its answer, 0 for N = 0; X = F or Y = F takes the coordinate from VF's value before
(R127). Under a framebuffer the answer and the pixels are those of the loop over the pixels before (R171); under the
oracle display the answer is false without a set bit and else the display's free bit (R169, R172). That this bit comes
from a list in State, that `afterDraw` moves on in it, and that the oracle display's list of pixels stays as it is, are
the model's choices (notes/assumptions/11, 18). -/
def Obligations.DrawReadsRowsAndSetsCollision : Prop :=
  ∀ (x y : Reg) (n : Fin 16),
    decode (BitVec.ofNat 16 (0xD000 + 0x100 * x.val + 0x10 * y.val + n.val)) = some (.drw x y n) ∧
    ∀ s : State, ∃ t rows c, exec (.drw x y n) s = .next t ∧ rows.length = n.val ∧
      (∀ (k : Nat) (h : k < rows.length), rows[k] = s.readByte (BitVec.ofNat 12 ((s.i.toNat + k) % 4096))) ∧
      t.history = .draw (s.reg x) (s.reg y) rows c :: s.history ∧
      (t.reg vf).toNat = (if c = true then 1 else 0) ∧
      (n.val = 0 → t.reg vf = 0) ∧
      (∀ w h e, s.params.display = .framebuffer w h e →
        drawSprite w h e (s.reg x) (s.reg y) rows s.screen = (c, t.screen)) ∧
      (s.params.display = .oracle → t.screen = s.screen ∧
        ((∀ row ∈ rows, row = 0) → c = false) ∧
        ((∃ row ∈ rows, row ≠ 0) → c = s.inputs.collisionBit) ∧
        ∀ (b : Bool) (rest : List Bool), s.inputs.collision = b :: rest →
          t.inputs.collision = rest ∧ ((∃ row ∈ rows, row ≠ 0) → c = b)) ∧
      t.inputs = s.inputs.afterDraw s.params.display ∧
      RegsSameBut [vf] s t ∧ FallsThrough s t ∧ SameBut [.regs, .pc, .screen, .inputs, .history] s t

/-- The loop of the framebuffer meets the contract of a draw: it answers a collision iff some set bit's pixel was on
before the draw, and every pixel toggles iff a set bit lies on it; for every display no narrower than a row and no
lower than the sprite, or that clips (R168, R171; for smaller wrapping displays see notes/assumptions/17). -/
def Obligations.FramebufferLoopMeetsDrawContract : Prop :=
  ∀ (w h : Nat) (e : Edge) (x y : Byte) (rows : List Byte) (scr : Screen),
    1 ≤ w → 1 ≤ h → (e = .wrap → 8 ≤ w ∧ rows.length ≤ h) → Screen.wf (.framebuffer w h e) scr = true →
    ((drawSprite w h e x y rows scr).1 = true ↔ ∃ p ∈ scr, SetBitOn w h e x y rows p) ∧
    ∀ p : Pixel, p ∈ (drawSprite w h e x y rows scr).2 ↔ Xor (p ∈ scr) (SetBitOn w h e x y rows p)

/-- Drawing the same sprite twice at the same place leaves the pixels as before the first draw, and where the first
draw does not collide the second one does iff some pixel was toggled (R127, R168, R171), on every display. On a wrapping
display narrower than a row or lower than the sprite, where R168 and the loop of R171 differ, the collision clause holds
of the loop, which the model follows by choice (notes/assumptions/17). -/
def Obligations.DrawingTwiceRestoresThePixels : Prop :=
  ∀ (w h : Nat) (e : Edge) (x y : Byte) (rows : List Byte) (scr : Screen),
    Screen.wf (.framebuffer w h e) scr = true →
    (drawSprite w h e x y rows (drawSprite w h e x y rows scr).2).2 = scr ∧
    ((drawSprite w h e x y rows scr).1 = false →
      ((drawSprite w h e x y rows (drawSprite w h e x y rows scr).2).1 = true ↔
        ∃ p, SetBitOn w h e x y rows p))

/-- A draw whose rows contain no set bit changes no pixel and answers `collision = false`, under every display model
(R169). -/
def Obligations.EmptySpriteNeverCollides : Prop :=
  ∀ (s : State) (x y : Byte) (rows : List Byte), (∀ row ∈ rows, row = 0) →
    (s.displayDraw x y rows).1 = false ∧ (s.displayDraw x y rows).2.screen = s.screen

/-- SKP and SKNP: with V[X] in 0..15 one query of key V[X], then PC + 4 or PC + 2, and nothing else changes; with
V[X] > 15 Fatal(KeyOutOfRange) before any Input query (R128, R129, R130, R145). That the Input's answer is the next key
sample is the model's form of the port (notes/assumptions/11, 12). -/
def Obligations.KeySkipsSampleTheKeyOrAreFatal : Prop :=
  ∀ (x : Reg),
    decode (BitVec.ofNat 16 (0xE09E + 0x100 * x.val)) = some (.skp x) ∧
    decode (BitVec.ofNat 16 (0xE0A1 + 0x100 * x.val)) = some (.sknp x) ∧
    (∀ (s : State) (k : Key), (s.reg x).toNat = k.val →
      (∃ t, exec (.skp x) s = .next t ∧
        t.pc.toNat = (s.pc.toNat + if s.inputs.keySample.isDown k = true then 4 else 2) % 4096 ∧
        t.history = .isKeyPressed k (s.inputs.keySample.isDown k) :: s.history ∧ t.inputs = s.inputs.afterKey ∧
        SameBut [.pc, .inputs, .history] s t) ∧
      (∃ t, exec (.sknp x) s = .next t ∧
        t.pc.toNat = (s.pc.toNat + if s.inputs.keySample.isDown k = true then 2 else 4) % 4096 ∧
        t.history = .isKeyPressed k (s.inputs.keySample.isDown k) :: s.history ∧ t.inputs = s.inputs.afterKey ∧
        SameBut [.pc, .inputs, .history] s t)) ∧
    ∀ s : State, 15 < (s.reg x).toNat →
      (∃ t, exec (.skp x) s = .next t ∧
        FatalTaken .keyOutOfRange (BitVec.ofNat 16 (0xE09E + 0x100 * x.val)) s t) ∧
      (∃ t, exec (.sknp x) s = .next t ∧
        FatalTaken .keyOutOfRange (BitVec.ofNat 16 (0xE0A1 + 0x100 * x.val)) s t)

/-- The Input contract: a key is down iff its bit of the sample is set; getPressedKey answers none iff no key is down,
otherwise a key that is down, and any of those that are down can be the one; and the query of SKP, SKNP and LD Vx, K can
meet every sample, from which it answers, each query taking one (R173, D23). The form of a key sample and the list the
samples come from are the model's choice (notes/assumptions/11, 12). -/
def Obligations.PressedKeyContract : Prop :=
  (∀ (q : KeySample) (k : Key), q.isDown k = q.down.getLsbD k.val) ∧
  (∀ q : KeySample, q.pressed = none ↔ ∀ k, q.isDown k = false) ∧
  (∀ (q : KeySample) (k : Key), q.pressed = some k → q.isDown k = true) ∧
  (∀ (down : BitVec 16) (k : Key), down.getLsbD k.val = true → (KeySample.mk down k).pressed = some k) ∧
  ∀ (s : State) (q : KeySample) (rest : List KeySample), s.inputs.keys = q :: rest → ∀ x : Reg,
    (∀ k : Key, (s.reg x).toNat = k.val →
      (∃ t, exec (.skp x) s = .next t ∧ t.history = .isKeyPressed k (q.isDown k) :: s.history ∧
        t.inputs.keys = rest) ∧
      (∃ t, exec (.sknp x) s = .next t ∧ t.history = .isKeyPressed k (q.isDown k) :: s.history ∧
        t.inputs.keys = rest)) ∧
    ∃ t, exec (.ldVK x) s = .next t ∧ t.history = .getPressedKey q.pressed :: s.history ∧ t.inputs.keys = rest

/-! ### Misc family (45_misc.md) -/

/-- LD Vx, DT: `V[X] <- DT; fall`; LD DT, Vx: `DT <- V[X]; fall`; LD ST, Vx: `ST <- V[X]; fall`, with no Audio command
(R131, R134, R135). -/
def Obligations.TimerInstructions : Prop :=
  ∀ (x : Reg),
    decode (BitVec.ofNat 16 (0xF007 + 0x100 * x.val)) = some (.ldVDT x) ∧
    decode (BitVec.ofNat 16 (0xF015 + 0x100 * x.val)) = some (.ldDTV x) ∧
    decode (BitVec.ofNat 16 (0xF018 + 0x100 * x.val)) = some (.ldSTV x) ∧
    ∀ s : State,
      (∃ t, exec (.ldVDT x) s = .next t ∧ t.reg x = s.dt ∧ RegsSameBut [x] s t ∧ FallsThrough s t ∧
        SameBut [.regs, .pc] s t) ∧
      (∃ t, exec (.ldDTV x) s = .next t ∧ t.dt = s.reg x ∧ FallsThrough s t ∧ SameBut [.delay, .pc] s t) ∧
      (∃ t, exec (.ldSTV x) s = .next t ∧ t.st = s.reg x ∧ FallsThrough s t ∧ SameBut [.sound, .pc] s t)

/-- LD Vx, K: one query; with no key latched it holds PC and latches the key reported, if any; with a key latched it
holds while a key is reported, and on the answer none writes the latched key, clears the latch and falls (R132). That the
answer is that of the next key sample, and that `afterKey` moves on, is the model's form of the port
(notes/assumptions/11, 12). -/
def Obligations.KeyWaitPressThenRelease : Prop :=
  ∀ (x : Reg),
    decode (BitVec.ofNat 16 (0xF00A + 0x100 * x.val)) = some (.ldVK x) ∧
    ∀ s : State, ∃ t, exec (.ldVK x) s = .next t ∧
      t.history = .getPressedKey s.inputs.keySample.pressed :: s.history ∧ t.inputs = s.inputs.afterKey ∧
      SameBut [.regs, .pc, .latch, .inputs, .history] s t ∧
      (s.latch = none → t.latch = s.inputs.keySample.pressed ∧ t.pc = s.pc ∧ RegsSameBut [] s t) ∧
      (∀ k o, s.latch = some k → s.inputs.keySample.pressed = some o →
        t.latch = some k ∧ t.pc = s.pc ∧ RegsSameBut [] s t) ∧
      (∀ k, s.latch = some k → s.inputs.keySample.pressed = none →
        t.latch = none ∧ (t.reg x).toNat = k.val ∧ RegsSameBut [x] s t ∧ FallsThrough s t)

/-- LD B, Vx: the hundreds, tens and units of V[X] at I, I+1, I+2 modulo 4096; every other byte, I and the registers
unchanged (R138). -/
def Obligations.StoreDecimalDigits : Prop :=
  ∀ (x : Reg),
    decode (BitVec.ofNat 16 (0xF033 + 0x100 * x.val)) = some (.ldBV x) ∧
    ∀ s : State, ∃ t, exec (.ldBV x) s = .next t ∧
      (t.readByte s.i).toNat = (s.reg x).toNat / 100 ∧
      (t.readByte (BitVec.ofNat 12 ((s.i.toNat + 1) % 4096))).toNat = (s.reg x).toNat / 10 % 10 ∧
      (t.readByte (BitVec.ofNat 12 ((s.i.toNat + 2) % 4096))).toNat = (s.reg x).toNat % 10 ∧
      BytesSameBut (addrsAtI s 3) s t ∧ FallsThrough s t ∧ SameBut [.memory, .pc] s t

/-- LD [I], Vx: V0 to VX at I to I+X modulo 4096; every other byte, I and the registers unchanged (R139). -/
def Obligations.StoreRegisters : Prop :=
  ∀ (x : Reg),
    decode (BitVec.ofNat 16 (0xF055 + 0x100 * x.val)) = some (.ldMV x) ∧
    ∀ s : State, ∃ t, exec (.ldMV x) s = .next t ∧
      (∀ k : Reg, k ≤ x → t.readByte (BitVec.ofNat 12 ((s.i.toNat + k.val) % 4096)) = s.reg k) ∧
      BytesSameBut (addrsAtI s (x.val + 1)) s t ∧ FallsThrough s t ∧ SameBut [.memory, .pc] s t

/-- LD Vx, [I]: V0 to VX from I to I+X modulo 4096; the registers above X, I and memory unchanged (R140). -/
def Obligations.LoadRegisters : Prop :=
  ∀ (x : Reg),
    decode (BitVec.ofNat 16 (0xF065 + 0x100 * x.val)) = some (.ldVM x) ∧
    ∀ s : State, ∃ t, exec (.ldVM x) s = .next t ∧
      (∀ k : Reg, k ≤ x → t.reg k = s.readByte (BitVec.ofNat 12 ((s.i.toNat + k.val) % 4096))) ∧
      (∀ k : Reg, x < k → t.reg k = s.reg k) ∧ FallsThrough s t ∧ SameBut [.regs, .pc] s t

/-- LD Vx, [I] is "the inverse" of LD [I], Vx: on the memory the store leaves and the same I, whatever the registers
hold by then, it gives V0 to VX back (R139, R140). -/
def Obligations.LoadRegistersUndoesStoreRegisters : Prop :=
  ∀ (x : Reg) (s : State), ∃ t, exec (.ldMV x) s = .next t ∧
    ∀ u : State, u.i = s.i → (∀ a, u.readByte a = t.readByte a) →
      ∃ u', exec (.ldVM x) u = .next u' ∧ ∀ k : Reg, k ≤ x → u'.reg k = s.reg k

/-- A store over the next instruction is what the next cycle fetches, for both storing instructions and for a store over
either or both of its bytes: each byte of the word fetched next is the byte stored there, or the old one where none was
(R71, R185). -/
def Obligations.StoreIsSeenByNextFetch : Prop :=
  ∀ (x : Reg) (s : State),
    (∃ t, exec (.ldMV x) s = .next t ∧ t.pc.toNat = (s.pc.toNat + 2) % 4096 ∧
      FetchSeesStore s t (x.val + 1) (fun k => (s.reg (Fin.ofNat 16 k)).toNat)) ∧
    (∃ t, exec (.ldBV x) s = .next t ∧ t.pc.toNat = (s.pc.toNat + 2) % 4096 ∧
      FetchSeesStore s t 3 (fun k => (s.reg x).toNat / 10 ^ (2 - k) % 10))

/-! ### Ticks, wakeups, fatal errors, cancellation (60_exceptions.md, 30_encoding.md section 4) -/

/-- A tick decrements both timers, saturating at 0, then issues one Audio command by ST > 0 after the decrement, then
renders, and changes nothing else (R156 to R159). -/
def Obligations.TickEffect : Prop :=
  ∀ s : State, s.tick.dt.toNat = s.dt.toNat - 1 ∧ s.tick.st.toNat = s.st.toNat - 1 ∧
    (0 < s.tick.st.toNat → s.tick.audio = .playing ∧ s.tick.history = .render :: .play :: s.history) ∧
    (s.tick.st.toNat = 0 → s.tick.audio = .paused ∧ s.tick.history = .render :: .pause :: s.history) ∧
    SameBut [.delay, .sound, .audio, .history] s s.tick

/-- After n ticks a timer has gone down by n and stays at 0 once it is there: 60 ticks bring 60 to 0 and a 61st leaves
it at 0 (R156). -/
def Obligations.TimersCountDownAndSaturate : Prop :=
  ∀ (n : Nat) (s : State), (State.tick^[n] s).dt.toNat = s.dt.toNat - n ∧ (State.tick^[n] s).st.toNat = s.st.toNat - n

/-- Ideal timing in exact rational arithmetic: a tick is due iff `now - LAST_TICK >= 1/60` at `now = n / F_HZ`, and a
tick advances LAST_TICK by exactly 1/60 (R161, R162). -/
def Obligations.IdealTickIsDueBySixtieths : Prop :=
  ∀ s : State, s.params.timing = .ideal → 1 ≤ s.params.fHz →
    (s.tickDue = true ↔ (1 : ℚ) / 60 ≤ (s.wakeups : ℚ) / s.params.fHz - (s.lastTick : ℚ) / 60) ∧
    (s.beginWakeup.lastTick : ℚ) / 60 = (s.lastTick : ℚ) / 60 + (if s.tickDue = true then 1 / 60 else 0)

/-- A wakeup starts with the tick if it is due and with nothing otherwise; it counts in the time base; under abstract
timing the tick bit is a free input and LAST_TICK is not kept, under ideal timing no tick bit is used; a pending
cancellation comes one wakeup nearer, none is made up, and one is due iff its count is 0 (R160, R163, R166). The form of the free inputs and of the request is the model's choice (notes/assumptions/11, 13, 16). -/
def Obligations.WakeupStartsWithDueTick : Prop :=
  ∀ s : State,
    (s.tickDue = true → SameBut [.timeBase, .inputs, .tickMark] s.tick s.beginWakeup) ∧
    (s.tickDue = false → SameBut [.timeBase, .inputs] s s.beginWakeup) ∧
    s.beginWakeup.wakeups = s.wakeups + 1 ∧
    s.beginWakeup.inputs.rand = s.inputs.rand ∧ s.beginWakeup.inputs.keys = s.inputs.keys ∧
    s.beginWakeup.inputs.collision = s.inputs.collision ∧
    (s.cancelDue = true ↔ s.inputs.cancelAfter = some 0) ∧
    (s.inputs.cancelAfter = none → s.beginWakeup.inputs.cancelAfter = none) ∧
    (∀ n, s.inputs.cancelAfter = some (n + 1) → s.beginWakeup.inputs.cancelAfter = some n) ∧
    (s.params.timing = .ideal → s.beginWakeup.inputs.tick = s.inputs.tick ∧
      s.beginWakeup.inputs.draws = s.inputs.draws) ∧
    (s.params.timing = .abstract → s.beginWakeup.lastTick = s.lastTick ∧
      ∀ (b : Bool) (rest : List Bool), s.inputs.tick = b :: rest →
        s.tickDue = b ∧ s.beginWakeup.inputs.tick = rest)

/-- A step runs the decoded instruction: when the two bytes at PC decode to i, a wakeup is its start (the tick, if
due) and then exactly the meaning of i (R89, R160). -/
def Obligations.StepRunsDecodedInstruction : Prop :=
  ∀ (s : State) (i : Instr), s.Ready →
    decodeBytes [s.readByte s.pc, s.readByte (s.pc + 1)] = some (i, []) → step s = exec i s.beginWakeup

/-- The same for a word of the opcode table placed where the next cycle fetches: the step runs the instruction the
decoder reads from it. -/
def Obligations.PlacedWordIsRun : Prop :=
  ∀ (s : State) (w : Nat) (i : Instr), s.Ready → w < 65536 → decodeTableWord 16 w = some i →
    step (s.withFetchWord 16 w) = exec i (s.withFetchWord 16 w).beginWakeup

/-- An undefined word raises Fatal(UndefinedInstruction) with the word and the PC it was fetched from, after the
wakeup's tick if any and with no other effect (R86, R142, R147). -/
def Obligations.UndefinedWordIsFatal : Prop :=
  ∀ s : State, s.Ready → undefinedWord s.fetchWord = true →
    ∃ t, step s = .next t ∧ FatalTaken .undefinedInstruction s.fetchWord s.beginWakeup t

/-- Every fatal error an instruction raises is precise: whenever it changes RUN, it changes nothing else but the
output history, which gains the report of its own word and PC (R91, R148). -/
def Obligations.FatalErrorsArePrecise : Prop :=
  ∀ (i : Instr) (s t : State), exec i s = .next t → t.run ≠ s.run → ∃ k, FatalTaken k (encode i) s t

/-- A halted CORE performs no instruction cycle and no tick: its wakeup does nothing (R39, R92, R160). -/
def Obligations.HaltedCoreDoesNothing : Prop :=
  ∀ (s : State) (why : HaltReason), wellFormedParams s.params = true → s.run = .halted why → step s = .next s

/-- A cancellation is taken between wakeups: RUN becomes halted(cancelled), with no tick, no cycle and no report; and
where the host asks for none, no step cancels the run or makes a request (R166). That `cancelAfter` is the host's request
is the model's choice (notes/assumptions/13). -/
def Obligations.CancellationHaltsBetweenWakeups : Prop :=
  (∀ s : State, wellFormedParams s.params = true → s.run = .running → s.inputs.cancelAfter = some 0 →
    ∃ t, step s = .next t ∧ t.run = .halted .cancelled ∧ SameBut [.run] s t) ∧
  ∀ s t : State, s.inputs.cancelAfter = none → step s = .next t →
    t.inputs.cancelAfter = none ∧ (t.run = .halted .cancelled → s.run = .halted .cancelled)

/-- Nothing stops the model: every instruction answers a next state from every state, and so does every step whose
parameters a machine can have. A fatal error, whose entry R148 describes, is a next state by the model's reading of it
(notes/assumptions/2), and which parameters a machine can have is the model's choice (notes/assumptions/10). -/
def Obligations.NothingFaultsOrIsRefused : Prop :=
  (∀ (i : Instr) (s : State), ∃ t, exec i s = .next t) ∧
  ∀ s : State, wellFormedParams s.params = true → ∃ t, step s = .next t

/-! ### Whole-machine rules -/

/-- No instruction writes a general register not named in the rule of destinations (R28, with the flag writers of
R25). -/
def Obligations.OnlyDestinationsAreWritten : Prop :=
  ∀ (i : Instr) (s t : State), exec i s = .next t → RegsSameBut (destinations i) s t

/-- Every side-effect write of VF writes exactly 0x00 or 0x01 (R27). -/
def Obligations.FlagWritesAreZeroOrOne : Prop :=
  ∀ (i : Instr) (s t : State), writesFlag i = true → exec i s = .next t → t.reg vf = 0x00 ∨ t.reg vf = 0x01

/-- Who writes what: I only ANNN, FX1E, FX29; DT only FX15; ST only FX18; the stack only CALL and RET; LATCH only FX0A;
memory only FX33 and FX55; the pixels only CLS and DRW; RUN only CALL, RET, SKP and SKNP; LAST_TICK, the audio device,
the time base and the parameters no instruction (R33 to R38, R50, R147, R157). -/
def Obligations.InstructionsChangeOnlyTheirParts : Prop :=
  ∀ (i : Instr) (s t : State), exec i s = .next t → SameBut (changes i) s t

/-- An instruction issues at most one transaction, and only one the port's rule allows it (R9 to R12, R14, R147). -/
def Obligations.InstructionsIssueOnlyTheirTransactions : Prop :=
  ∀ (i : Instr) (s t : State), exec i s = .next t →
    t.history = s.history ∨ ∃ e, t.history = e :: s.history ∧ mayIssue i e = true

/-- The CORE issues exactly one Audio command on every tick and never at any other time: a step adds as many Audio
commands as renders, at most one (R11, R157, R158, R160). -/
def Obligations.OneAudioCommandPerRender : Prop :=
  ∀ s t : State, step s = .next t →
    ∃ n ≤ 1, audioCommands t.history = audioCommands s.history + n ∧ renders t.history = renders s.history + n

/-- No instruction reads ST (R35): on states that differ only in ST, an instruction gives states that differ at most
in ST. -/
def Obligations.SoundTimerIsNeverRead : Prop :=
  ∀ (i : Instr) (s t : State) (n : Byte), exec i s = .next t →
    ∃ t', exec i (s.setSound n) = .next t' ∧ SameBut [.sound] t t'

/-! ### Invariants kept by every step -/

/-- Every step keeps the canonical form of memory and of the pixel state, and changes no parameter (R183). -/
def Obligations.StepKeepsCanonicalForm : Prop :=
  ∀ s t : State, s.Canonical → step s = .next t → t.Canonical ∧ t.params = s.params

/-- Every step keeps fatal reports precise: a halted CORE's report names its PC and the word memory holds there (R148,
R149). -/
def Obligations.StepKeepsReportPrecise : Prop :=
  ∀ s t : State, s.ReportPrecise → step s = .next t → t.ReportPrecise

/-- Every step keeps the ideal schedule: after wakeups 0 to n the number of ticks is floor(60 * n / F_HZ) for
F_HZ >= 60, and one a wakeup from wakeup 1 on for F_HZ < 60 (R164). -/
def Obligations.StepKeepsTickSchedule : Prop :=
  ∀ s t : State, s.OnSchedule → step s = .next t → t.OnSchedule
end

