-- ==== Sys2Proof/Laws/Decode.lean ====
section
/-! SUPPORT. The fields of an encoded word (R75, R77): each format gives back what was put in. -/

namespace Sys2Proof

@[simp] theorem nibble_toNat (n : Fin 16) : (nibble n).toNat = n.val := rfl

/-! ### The words of the formats as numbers -/

/-- Concatenation as arithmetic (R16). -/
theorem append_toNat {m n : Nat} (a : BitVec m) (b : BitVec n) : (a ++ b).toNat = a.toNat * 2 ^ n + b.toNat := by
  rw [BitVec.toNat_append, ← Nat.shiftLeft_add_eq_or_of_lt b.isLt, Nat.shiftLeft_eq]

@[simp] theorem encodeAddr_toNat (f : BitVec 4) (nnn : Addr) :
    (encodeAddr f nnn).toNat = f.toNat * 4096 + nnn.toNat := append_toNat f nnn

@[simp] theorem encodeRegByte_toNat (f : BitVec 4) (x : Reg) (kk : Byte) :
    (encodeRegByte f x kk).toNat = (f.toNat * 16 + x.val) * 256 + kk.toNat :=
  (append_toNat (f ++ nibble x) kk).trans (by rw [append_toNat f, nibble_toNat]; norm_num)

@[simp] theorem encodeRegReg_toNat (f : BitVec 4) (x y n : Fin 16) :
    (encodeRegReg f x y n).toNat = ((f.toNat * 16 + x.val) * 16 + y.val) * 16 + n.val :=
  (append_toNat ((f ++ nibble x) ++ nibble y) (nibble n)).trans (by
    rw [append_toNat (f ++ nibble x), append_toNat f, nibble_toNat, nibble_toNat, nibble_toNat]; norm_num)

/-! ### The fields of a word as numbers -/

theorem fieldF_toNat (w : Word) : (fieldF w).toNat = w.toNat / 4096 := by
  have := w.isLt
  simp [fieldF, Nat.shiftRight_eq_div_pow]
  omega

theorem fieldX_val (w : Word) : (fieldX w).val = w.toNat / 256 % 16 := by
  simp [fieldX, Nat.shiftRight_eq_div_pow]

theorem fieldY_val (w : Word) : (fieldY w).val = w.toNat / 16 % 16 := by
  simp [fieldY, Nat.shiftRight_eq_div_pow]

theorem fieldN_val (w : Word) : (fieldN w).val = w.toNat % 16 := by
  simp [fieldN]

theorem fieldKK_toNat (w : Word) : (fieldKK w).toNat = w.toNat % 256 := by
  simp [fieldKK]

theorem fieldNNN_toNat (w : Word) : (fieldNNN w).toNat = w.toNat % 4096 := by
  simp [fieldNNN]

/-! ### Each format gives back its fields -/

@[simp] theorem fieldF_encodeAddr (f : BitVec 4) (nnn : Addr) : fieldF (encodeAddr f nnn) = f :=
  BitVec.eq_of_toNat_eq (by rw [fieldF_toNat, encodeAddr_toNat]; omega)

@[simp] theorem fieldNNN_encodeAddr (f : BitVec 4) (nnn : Addr) : fieldNNN (encodeAddr f nnn) = nnn :=
  BitVec.eq_of_toNat_eq (by rw [fieldNNN_toNat, encodeAddr_toNat]; omega)

@[simp] theorem fieldF_encodeRegByte (f : BitVec 4) (x : Reg) (kk : Byte) : fieldF (encodeRegByte f x kk) = f :=
  BitVec.eq_of_toNat_eq (by rw [fieldF_toNat, encodeRegByte_toNat]; omega)

@[simp] theorem fieldX_encodeRegByte (f : BitVec 4) (x : Reg) (kk : Byte) : fieldX (encodeRegByte f x kk) = x :=
  Fin.ext (by rw [fieldX_val, encodeRegByte_toNat]; omega)

@[simp] theorem fieldKK_encodeRegByte (f : BitVec 4) (x : Reg) (kk : Byte) : fieldKK (encodeRegByte f x kk) = kk :=
  BitVec.eq_of_toNat_eq (by rw [fieldKK_toNat, encodeRegByte_toNat]; omega)

@[simp] theorem fieldF_encodeRegReg (f : BitVec 4) (x y n : Fin 16) : fieldF (encodeRegReg f x y n) = f :=
  BitVec.eq_of_toNat_eq (by rw [fieldF_toNat, encodeRegReg_toNat]; omega)

@[simp] theorem fieldX_encodeRegReg (f : BitVec 4) (x y n : Fin 16) : fieldX (encodeRegReg f x y n) = x :=
  Fin.ext (by rw [fieldX_val, encodeRegReg_toNat]; omega)

@[simp] theorem fieldY_encodeRegReg (f : BitVec 4) (x y n : Fin 16) : fieldY (encodeRegReg f x y n) = y :=
  Fin.ext (by rw [fieldY_val, encodeRegReg_toNat]; omega)

@[simp] theorem fieldN_encodeRegReg (f : BitVec 4) (x y n : Fin 16) : fieldN (encodeRegReg f x y n) = n :=
  Fin.ext (by rw [fieldN_val, encodeRegReg_toNat]; omega)

/-! ### Each format under the masks of the opcode map (R93) -/

theorem encodeAddr_family (f : BitVec 4) (nnn : Addr) : encodeAddr f nnn &&& 0xF000 = encodeAddr f 0 := by
  apply BitVec.eq_of_getLsbD_eq
  intro i hi
  simp only [encodeAddr, BitVec.getLsbD_and, BitVec.getLsbD_append]
  interval_cases i <;> simp

theorem encodeRegByte_family (f : BitVec 4) (x : Reg) (kk : Byte) :
    encodeRegByte f x kk &&& 0xF000 = encodeRegByte f 0 0 := by
  apply BitVec.eq_of_getLsbD_eq
  intro i hi
  simp only [encodeRegByte, BitVec.getLsbD_and, BitVec.getLsbD_append]
  interval_cases i <;> simp [nibble]

theorem encodeRegByte_lowByte (f : BitVec 4) (x : Reg) (kk : Byte) :
    encodeRegByte f x kk &&& 0xF0FF = encodeRegByte f 0 kk := by
  apply BitVec.eq_of_getLsbD_eq
  intro i hi
  simp only [encodeRegByte, BitVec.getLsbD_and, BitVec.getLsbD_append]
  interval_cases i <;> simp [nibble]

theorem encodeRegReg_family (f : BitVec 4) (x y n : Fin 16) :
    encodeRegReg f x y n &&& 0xF000 = encodeRegReg f 0 0 0 := by
  apply BitVec.eq_of_getLsbD_eq
  intro i hi
  simp only [encodeRegReg, BitVec.getLsbD_and, BitVec.getLsbD_append]
  interval_cases i <;> simp [nibble]

theorem encodeRegReg_lowNibble (f : BitVec 4) (x y n : Fin 16) :
    encodeRegReg f x y n &&& 0xF00F = encodeRegReg f 0 0 n := by
  apply BitVec.eq_of_getLsbD_eq
  intro i hi
  simp only [encodeRegReg, BitVec.getLsbD_and, BitVec.getLsbD_append]
  interval_cases i <;> simp [nibble]

/-! ### Words written as numbers, as the opcode map's digits give them -/

theorem ofNat_eq_encodeAddr (f : BitVec 4) (nnn : Addr) (n : Nat) (h : n = f.toNat * 4096) :
    BitVec.ofNat 16 (n + nnn.toNat) = encodeAddr f nnn := by
  apply BitVec.eq_of_toNat_eq; simp [h]; omega

theorem ofNat_eq_encodeRegByte (f : BitVec 4) (x : Reg) (kk : Byte) (n : Nat) (h : n = f.toNat * 4096) :
    BitVec.ofNat 16 (n + 0x100 * x.val + kk.toNat) = encodeRegByte f x kk := by
  apply BitVec.eq_of_toNat_eq; simp [h]; omega

theorem ofNat_eq_encodeRegSub (f : BitVec 4) (x : Reg) (kk : Byte) (n : Nat) (h : n = f.toNat * 4096 + kk.toNat) :
    BitVec.ofNat 16 (n + 0x100 * x.val) = encodeRegByte f x kk := by
  apply BitVec.eq_of_toNat_eq; simp [h]; omega

theorem ofNat_eq_encodeRegReg (f : BitVec 4) (x y z : Fin 16) (n : Nat) (h : n = f.toNat * 4096) :
    BitVec.ofNat 16 (n + 0x100 * x.val + 0x10 * y.val + z.val) = encodeRegReg f x y z := by
  apply BitVec.eq_of_toNat_eq; simp [h]; omega

theorem ofNat_eq_encodeAlu (f : BitVec 4) (x y z : Fin 16) (n : Nat) (h : n = f.toNat * 4096 + z.val) :
    BitVec.ofNat 16 (n + 0x100 * x.val + 0x10 * y.val) = encodeRegReg f x y z := by
  apply BitVec.eq_of_toNat_eq; simp [h]; omega

end Sys2Proof
end

