-- ==== Sys2Proof/Laws/State.lean ====
section
/-! SUPPORT. For every update of the state, what it leaves in each field, and what the reads of one register, byte and
stack entry see after it. All hold by unfolding once, so that no later proof unfolds a record update. -/

namespace Sys2Proof.Machine

variable (s : State)

/-! ### setReg -/

@[simp] theorem setReg_mem (r : Reg) (b : Byte) : (s.setReg r b).mem = s.mem := rfl
@[simp] theorem setReg_pc (r : Reg) (b : Byte) : (s.setReg r b).pc = s.pc := rfl
@[simp] theorem setReg_i (r : Reg) (b : Byte) : (s.setReg r b).i = s.i := rfl
@[simp] theorem setReg_dt (r : Reg) (b : Byte) : (s.setReg r b).dt = s.dt := rfl
@[simp] theorem setReg_st (r : Reg) (b : Byte) : (s.setReg r b).st = s.st := rfl
@[simp] theorem setReg_stack (r : Reg) (b : Byte) : (s.setReg r b).stack = s.stack := rfl
@[simp] theorem setReg_sp (r : Reg) (b : Byte) : (s.setReg r b).sp = s.sp := rfl
@[simp] theorem setReg_latch (r : Reg) (b : Byte) : (s.setReg r b).latch = s.latch := rfl
@[simp] theorem setReg_run (r : Reg) (b : Byte) : (s.setReg r b).run = s.run := rfl
@[simp] theorem setReg_lastTick (r : Reg) (b : Byte) : (s.setReg r b).lastTick = s.lastTick := rfl
@[simp] theorem setReg_screen (r : Reg) (b : Byte) : (s.setReg r b).screen = s.screen := rfl
@[simp] theorem setReg_audio (r : Reg) (b : Byte) : (s.setReg r b).audio = s.audio := rfl
@[simp] theorem setReg_params (r : Reg) (b : Byte) : (s.setReg r b).params = s.params := rfl
@[simp] theorem setReg_wakeups (r : Reg) (b : Byte) : (s.setReg r b).wakeups = s.wakeups := rfl
@[simp] theorem setReg_inputs (r : Reg) (b : Byte) : (s.setReg r b).inputs = s.inputs := rfl
@[simp] theorem setReg_history (r : Reg) (b : Byte) : (s.setReg r b).history = s.history := rfl
@[simp] theorem setReg_readByte (r : Reg) (b : Byte) (a : Addr) : (s.setReg r b).readByte a = s.readByte a := rfl
@[simp] theorem setReg_stackEntry (r : Reg) (b : Byte) (j : Nat) : (s.setReg r b).stackEntry j = s.stackEntry j := rfl

/-! ### setRegFlag -/

@[simp] theorem setRegFlag_mem (x : Reg) (b : Byte) (f : Bool) : (s.setRegFlag x b f).mem = s.mem := rfl
@[simp] theorem setRegFlag_pc (x : Reg) (b : Byte) (f : Bool) : (s.setRegFlag x b f).pc = s.pc := rfl
@[simp] theorem setRegFlag_i (x : Reg) (b : Byte) (f : Bool) : (s.setRegFlag x b f).i = s.i := rfl
@[simp] theorem setRegFlag_dt (x : Reg) (b : Byte) (f : Bool) : (s.setRegFlag x b f).dt = s.dt := rfl
@[simp] theorem setRegFlag_st (x : Reg) (b : Byte) (f : Bool) : (s.setRegFlag x b f).st = s.st := rfl
@[simp] theorem setRegFlag_stack (x : Reg) (b : Byte) (f : Bool) : (s.setRegFlag x b f).stack = s.stack := rfl
@[simp] theorem setRegFlag_sp (x : Reg) (b : Byte) (f : Bool) : (s.setRegFlag x b f).sp = s.sp := rfl
@[simp] theorem setRegFlag_latch (x : Reg) (b : Byte) (f : Bool) : (s.setRegFlag x b f).latch = s.latch := rfl
@[simp] theorem setRegFlag_run (x : Reg) (b : Byte) (f : Bool) : (s.setRegFlag x b f).run = s.run := rfl
@[simp] theorem setRegFlag_lastTick (x : Reg) (b : Byte) (f : Bool) : (s.setRegFlag x b f).lastTick = s.lastTick := rfl
@[simp] theorem setRegFlag_screen (x : Reg) (b : Byte) (f : Bool) : (s.setRegFlag x b f).screen = s.screen := rfl
@[simp] theorem setRegFlag_audio (x : Reg) (b : Byte) (f : Bool) : (s.setRegFlag x b f).audio = s.audio := rfl
@[simp] theorem setRegFlag_params (x : Reg) (b : Byte) (f : Bool) : (s.setRegFlag x b f).params = s.params := rfl
@[simp] theorem setRegFlag_wakeups (x : Reg) (b : Byte) (f : Bool) : (s.setRegFlag x b f).wakeups = s.wakeups := rfl
@[simp] theorem setRegFlag_inputs (x : Reg) (b : Byte) (f : Bool) : (s.setRegFlag x b f).inputs = s.inputs := rfl
@[simp] theorem setRegFlag_history (x : Reg) (b : Byte) (f : Bool) : (s.setRegFlag x b f).history = s.history := rfl
@[simp] theorem setRegFlag_readByte (x : Reg) (b : Byte) (f : Bool) (a : Addr) : (s.setRegFlag x b f).readByte a = s.readByte a := rfl
@[simp] theorem setRegFlag_stackEntry (x : Reg) (b : Byte) (f : Bool) (j : Nat) : (s.setRegFlag x b f).stackEntry j = s.stackEntry j := rfl

/-! ### setIndex -/

@[simp] theorem setIndex_mem (a : Addr) : (s.setIndex a).mem = s.mem := rfl
@[simp] theorem setIndex_v (a : Addr) : (s.setIndex a).v = s.v := rfl
@[simp] theorem setIndex_pc (a : Addr) : (s.setIndex a).pc = s.pc := rfl
@[simp] theorem setIndex_i (a : Addr) : (s.setIndex a).i = a := rfl
@[simp] theorem setIndex_dt (a : Addr) : (s.setIndex a).dt = s.dt := rfl
@[simp] theorem setIndex_st (a : Addr) : (s.setIndex a).st = s.st := rfl
@[simp] theorem setIndex_stack (a : Addr) : (s.setIndex a).stack = s.stack := rfl
@[simp] theorem setIndex_sp (a : Addr) : (s.setIndex a).sp = s.sp := rfl
@[simp] theorem setIndex_latch (a : Addr) : (s.setIndex a).latch = s.latch := rfl
@[simp] theorem setIndex_run (a : Addr) : (s.setIndex a).run = s.run := rfl
@[simp] theorem setIndex_lastTick (a : Addr) : (s.setIndex a).lastTick = s.lastTick := rfl
@[simp] theorem setIndex_screen (a : Addr) : (s.setIndex a).screen = s.screen := rfl
@[simp] theorem setIndex_audio (a : Addr) : (s.setIndex a).audio = s.audio := rfl
@[simp] theorem setIndex_params (a : Addr) : (s.setIndex a).params = s.params := rfl
@[simp] theorem setIndex_wakeups (a : Addr) : (s.setIndex a).wakeups = s.wakeups := rfl
@[simp] theorem setIndex_inputs (a : Addr) : (s.setIndex a).inputs = s.inputs := rfl
@[simp] theorem setIndex_history (a : Addr) : (s.setIndex a).history = s.history := rfl
@[simp] theorem setIndex_reg (a : Addr) (q : Reg) : (s.setIndex a).reg q = s.reg q := rfl
@[simp] theorem setIndex_readByte (a : Addr) (c : Addr) : (s.setIndex a).readByte c = s.readByte c := rfl
@[simp] theorem setIndex_stackEntry (a : Addr) (j : Nat) : (s.setIndex a).stackEntry j = s.stackEntry j := rfl

/-! ### setDelay -/

@[simp] theorem setDelay_mem (b : Byte) : (s.setDelay b).mem = s.mem := rfl
@[simp] theorem setDelay_v (b : Byte) : (s.setDelay b).v = s.v := rfl
@[simp] theorem setDelay_pc (b : Byte) : (s.setDelay b).pc = s.pc := rfl
@[simp] theorem setDelay_i (b : Byte) : (s.setDelay b).i = s.i := rfl
@[simp] theorem setDelay_dt (b : Byte) : (s.setDelay b).dt = b := rfl
@[simp] theorem setDelay_st (b : Byte) : (s.setDelay b).st = s.st := rfl
@[simp] theorem setDelay_stack (b : Byte) : (s.setDelay b).stack = s.stack := rfl
@[simp] theorem setDelay_sp (b : Byte) : (s.setDelay b).sp = s.sp := rfl
@[simp] theorem setDelay_latch (b : Byte) : (s.setDelay b).latch = s.latch := rfl
@[simp] theorem setDelay_run (b : Byte) : (s.setDelay b).run = s.run := rfl
@[simp] theorem setDelay_lastTick (b : Byte) : (s.setDelay b).lastTick = s.lastTick := rfl
@[simp] theorem setDelay_screen (b : Byte) : (s.setDelay b).screen = s.screen := rfl
@[simp] theorem setDelay_audio (b : Byte) : (s.setDelay b).audio = s.audio := rfl
@[simp] theorem setDelay_params (b : Byte) : (s.setDelay b).params = s.params := rfl
@[simp] theorem setDelay_wakeups (b : Byte) : (s.setDelay b).wakeups = s.wakeups := rfl
@[simp] theorem setDelay_inputs (b : Byte) : (s.setDelay b).inputs = s.inputs := rfl
@[simp] theorem setDelay_history (b : Byte) : (s.setDelay b).history = s.history := rfl
@[simp] theorem setDelay_reg (b : Byte) (q : Reg) : (s.setDelay b).reg q = s.reg q := rfl
@[simp] theorem setDelay_readByte (b : Byte) (a : Addr) : (s.setDelay b).readByte a = s.readByte a := rfl
@[simp] theorem setDelay_stackEntry (b : Byte) (j : Nat) : (s.setDelay b).stackEntry j = s.stackEntry j := rfl

/-! ### setSound -/

@[simp] theorem setSound_mem (b : Byte) : (s.setSound b).mem = s.mem := rfl
@[simp] theorem setSound_v (b : Byte) : (s.setSound b).v = s.v := rfl
@[simp] theorem setSound_pc (b : Byte) : (s.setSound b).pc = s.pc := rfl
@[simp] theorem setSound_i (b : Byte) : (s.setSound b).i = s.i := rfl
@[simp] theorem setSound_dt (b : Byte) : (s.setSound b).dt = s.dt := rfl
@[simp] theorem setSound_st (b : Byte) : (s.setSound b).st = b := rfl
@[simp] theorem setSound_stack (b : Byte) : (s.setSound b).stack = s.stack := rfl
@[simp] theorem setSound_sp (b : Byte) : (s.setSound b).sp = s.sp := rfl
@[simp] theorem setSound_latch (b : Byte) : (s.setSound b).latch = s.latch := rfl
@[simp] theorem setSound_run (b : Byte) : (s.setSound b).run = s.run := rfl
@[simp] theorem setSound_lastTick (b : Byte) : (s.setSound b).lastTick = s.lastTick := rfl
@[simp] theorem setSound_screen (b : Byte) : (s.setSound b).screen = s.screen := rfl
@[simp] theorem setSound_audio (b : Byte) : (s.setSound b).audio = s.audio := rfl
@[simp] theorem setSound_params (b : Byte) : (s.setSound b).params = s.params := rfl
@[simp] theorem setSound_wakeups (b : Byte) : (s.setSound b).wakeups = s.wakeups := rfl
@[simp] theorem setSound_inputs (b : Byte) : (s.setSound b).inputs = s.inputs := rfl
@[simp] theorem setSound_history (b : Byte) : (s.setSound b).history = s.history := rfl
@[simp] theorem setSound_reg (b : Byte) (q : Reg) : (s.setSound b).reg q = s.reg q := rfl
@[simp] theorem setSound_readByte (b : Byte) (a : Addr) : (s.setSound b).readByte a = s.readByte a := rfl
@[simp] theorem setSound_stackEntry (b : Byte) (j : Nat) : (s.setSound b).stackEntry j = s.stackEntry j := rfl

/-! ### setLatch -/

@[simp] theorem setLatch_mem (o : Option Key) : (s.setLatch o).mem = s.mem := rfl
@[simp] theorem setLatch_v (o : Option Key) : (s.setLatch o).v = s.v := rfl
@[simp] theorem setLatch_pc (o : Option Key) : (s.setLatch o).pc = s.pc := rfl
@[simp] theorem setLatch_i (o : Option Key) : (s.setLatch o).i = s.i := rfl
@[simp] theorem setLatch_dt (o : Option Key) : (s.setLatch o).dt = s.dt := rfl
@[simp] theorem setLatch_st (o : Option Key) : (s.setLatch o).st = s.st := rfl
@[simp] theorem setLatch_stack (o : Option Key) : (s.setLatch o).stack = s.stack := rfl
@[simp] theorem setLatch_sp (o : Option Key) : (s.setLatch o).sp = s.sp := rfl
@[simp] theorem setLatch_latch (o : Option Key) : (s.setLatch o).latch = o := rfl
@[simp] theorem setLatch_run (o : Option Key) : (s.setLatch o).run = s.run := rfl
@[simp] theorem setLatch_lastTick (o : Option Key) : (s.setLatch o).lastTick = s.lastTick := rfl
@[simp] theorem setLatch_screen (o : Option Key) : (s.setLatch o).screen = s.screen := rfl
@[simp] theorem setLatch_audio (o : Option Key) : (s.setLatch o).audio = s.audio := rfl
@[simp] theorem setLatch_params (o : Option Key) : (s.setLatch o).params = s.params := rfl
@[simp] theorem setLatch_wakeups (o : Option Key) : (s.setLatch o).wakeups = s.wakeups := rfl
@[simp] theorem setLatch_inputs (o : Option Key) : (s.setLatch o).inputs = s.inputs := rfl
@[simp] theorem setLatch_history (o : Option Key) : (s.setLatch o).history = s.history := rfl
@[simp] theorem setLatch_reg (o : Option Key) (q : Reg) : (s.setLatch o).reg q = s.reg q := rfl
@[simp] theorem setLatch_readByte (o : Option Key) (a : Addr) : (s.setLatch o).readByte a = s.readByte a := rfl
@[simp] theorem setLatch_stackEntry (o : Option Key) (j : Nat) : (s.setLatch o).stackEntry j = s.stackEntry j := rfl

/-! ### fall -/

@[simp] theorem fall_mem : s.fall.mem = s.mem := rfl
@[simp] theorem fall_v : s.fall.v = s.v := rfl
@[simp] theorem fall_pc : s.fall.pc = s.pc + 2 := rfl
@[simp] theorem fall_i : s.fall.i = s.i := rfl
@[simp] theorem fall_dt : s.fall.dt = s.dt := rfl
@[simp] theorem fall_st : s.fall.st = s.st := rfl
@[simp] theorem fall_stack : s.fall.stack = s.stack := rfl
@[simp] theorem fall_sp : s.fall.sp = s.sp := rfl
@[simp] theorem fall_latch : s.fall.latch = s.latch := rfl
@[simp] theorem fall_run : s.fall.run = s.run := rfl
@[simp] theorem fall_lastTick : s.fall.lastTick = s.lastTick := rfl
@[simp] theorem fall_screen : s.fall.screen = s.screen := rfl
@[simp] theorem fall_audio : s.fall.audio = s.audio := rfl
@[simp] theorem fall_params : s.fall.params = s.params := rfl
@[simp] theorem fall_wakeups : s.fall.wakeups = s.wakeups := rfl
@[simp] theorem fall_inputs : s.fall.inputs = s.inputs := rfl
@[simp] theorem fall_history : s.fall.history = s.history := rfl
@[simp] theorem fall_reg (q : Reg) : s.fall.reg q = s.reg q := rfl
@[simp] theorem fall_readByte (a : Addr) : s.fall.readByte a = s.readByte a := rfl
@[simp] theorem fall_stackEntry (j : Nat) : s.fall.stackEntry j = s.stackEntry j := rfl

/-! ### goto -/

@[simp] theorem goto_mem (t : Addr) : (s.goto t).mem = s.mem := rfl
@[simp] theorem goto_v (t : Addr) : (s.goto t).v = s.v := rfl
@[simp] theorem goto_pc (t : Addr) : (s.goto t).pc = t := rfl
@[simp] theorem goto_i (t : Addr) : (s.goto t).i = s.i := rfl
@[simp] theorem goto_dt (t : Addr) : (s.goto t).dt = s.dt := rfl
@[simp] theorem goto_st (t : Addr) : (s.goto t).st = s.st := rfl
@[simp] theorem goto_stack (t : Addr) : (s.goto t).stack = s.stack := rfl
@[simp] theorem goto_sp (t : Addr) : (s.goto t).sp = s.sp := rfl
@[simp] theorem goto_latch (t : Addr) : (s.goto t).latch = s.latch := rfl
@[simp] theorem goto_run (t : Addr) : (s.goto t).run = s.run := rfl
@[simp] theorem goto_lastTick (t : Addr) : (s.goto t).lastTick = s.lastTick := rfl
@[simp] theorem goto_screen (t : Addr) : (s.goto t).screen = s.screen := rfl
@[simp] theorem goto_audio (t : Addr) : (s.goto t).audio = s.audio := rfl
@[simp] theorem goto_params (t : Addr) : (s.goto t).params = s.params := rfl
@[simp] theorem goto_wakeups (t : Addr) : (s.goto t).wakeups = s.wakeups := rfl
@[simp] theorem goto_inputs (t : Addr) : (s.goto t).inputs = s.inputs := rfl
@[simp] theorem goto_history (t : Addr) : (s.goto t).history = s.history := rfl
@[simp] theorem goto_reg (t : Addr) (q : Reg) : (s.goto t).reg q = s.reg q := rfl
@[simp] theorem goto_readByte (t : Addr) (a : Addr) : (s.goto t).readByte a = s.readByte a := rfl
@[simp] theorem goto_stackEntry (t : Addr) (j : Nat) : (s.goto t).stackEntry j = s.stackEntry j := rfl

/-! ### skipIf -/

@[simp] theorem skipIf_mem (c : Bool) : (s.skipIf c).mem = s.mem := rfl
@[simp] theorem skipIf_v (c : Bool) : (s.skipIf c).v = s.v := rfl
@[simp] theorem skipIf_pc (c : Bool) : (s.skipIf c).pc = (if c then s.pc + 4 else s.pc + 2) := rfl
@[simp] theorem skipIf_i (c : Bool) : (s.skipIf c).i = s.i := rfl
@[simp] theorem skipIf_dt (c : Bool) : (s.skipIf c).dt = s.dt := rfl
@[simp] theorem skipIf_st (c : Bool) : (s.skipIf c).st = s.st := rfl
@[simp] theorem skipIf_stack (c : Bool) : (s.skipIf c).stack = s.stack := rfl
@[simp] theorem skipIf_sp (c : Bool) : (s.skipIf c).sp = s.sp := rfl
@[simp] theorem skipIf_latch (c : Bool) : (s.skipIf c).latch = s.latch := rfl
@[simp] theorem skipIf_run (c : Bool) : (s.skipIf c).run = s.run := rfl
@[simp] theorem skipIf_lastTick (c : Bool) : (s.skipIf c).lastTick = s.lastTick := rfl
@[simp] theorem skipIf_screen (c : Bool) : (s.skipIf c).screen = s.screen := rfl
@[simp] theorem skipIf_audio (c : Bool) : (s.skipIf c).audio = s.audio := rfl
@[simp] theorem skipIf_params (c : Bool) : (s.skipIf c).params = s.params := rfl
@[simp] theorem skipIf_wakeups (c : Bool) : (s.skipIf c).wakeups = s.wakeups := rfl
@[simp] theorem skipIf_inputs (c : Bool) : (s.skipIf c).inputs = s.inputs := rfl
@[simp] theorem skipIf_history (c : Bool) : (s.skipIf c).history = s.history := rfl
@[simp] theorem skipIf_reg (c : Bool) (q : Reg) : (s.skipIf c).reg q = s.reg q := rfl
@[simp] theorem skipIf_readByte (c : Bool) (a : Addr) : (s.skipIf c).readByte a = s.readByte a := rfl
@[simp] theorem skipIf_stackEntry (c : Bool) (j : Nat) : (s.skipIf c).stackEntry j = s.stackEntry j := rfl

/-! ### hold -/

@[simp] theorem hold_mem : s.hold.mem = s.mem := rfl
@[simp] theorem hold_v : s.hold.v = s.v := rfl
@[simp] theorem hold_pc : s.hold.pc = s.pc := rfl
@[simp] theorem hold_i : s.hold.i = s.i := rfl
@[simp] theorem hold_dt : s.hold.dt = s.dt := rfl
@[simp] theorem hold_st : s.hold.st = s.st := rfl
@[simp] theorem hold_stack : s.hold.stack = s.stack := rfl
@[simp] theorem hold_sp : s.hold.sp = s.sp := rfl
@[simp] theorem hold_latch : s.hold.latch = s.latch := rfl
@[simp] theorem hold_run : s.hold.run = s.run := rfl
@[simp] theorem hold_lastTick : s.hold.lastTick = s.lastTick := rfl
@[simp] theorem hold_screen : s.hold.screen = s.screen := rfl
@[simp] theorem hold_audio : s.hold.audio = s.audio := rfl
@[simp] theorem hold_params : s.hold.params = s.params := rfl
@[simp] theorem hold_wakeups : s.hold.wakeups = s.wakeups := rfl
@[simp] theorem hold_inputs : s.hold.inputs = s.inputs := rfl
@[simp] theorem hold_history : s.hold.history = s.history := rfl
@[simp] theorem hold_reg (q : Reg) : s.hold.reg q = s.reg q := rfl
@[simp] theorem hold_readByte (a : Addr) : s.hold.readByte a = s.readByte a := rfl
@[simp] theorem hold_stackEntry (j : Nat) : s.hold.stackEntry j = s.stackEntry j := rfl

/-! ### emit -/

@[simp] theorem emit_mem (e : Event) : (s.emit e).mem = s.mem := rfl
@[simp] theorem emit_v (e : Event) : (s.emit e).v = s.v := rfl
@[simp] theorem emit_pc (e : Event) : (s.emit e).pc = s.pc := rfl
@[simp] theorem emit_i (e : Event) : (s.emit e).i = s.i := rfl
@[simp] theorem emit_dt (e : Event) : (s.emit e).dt = s.dt := rfl
@[simp] theorem emit_st (e : Event) : (s.emit e).st = s.st := rfl
@[simp] theorem emit_stack (e : Event) : (s.emit e).stack = s.stack := rfl
@[simp] theorem emit_sp (e : Event) : (s.emit e).sp = s.sp := rfl
@[simp] theorem emit_latch (e : Event) : (s.emit e).latch = s.latch := rfl
@[simp] theorem emit_run (e : Event) : (s.emit e).run = s.run := rfl
@[simp] theorem emit_lastTick (e : Event) : (s.emit e).lastTick = s.lastTick := rfl
@[simp] theorem emit_screen (e : Event) : (s.emit e).screen = s.screen := rfl
@[simp] theorem emit_audio (e : Event) : (s.emit e).audio = s.audio := rfl
@[simp] theorem emit_params (e : Event) : (s.emit e).params = s.params := rfl
@[simp] theorem emit_wakeups (e : Event) : (s.emit e).wakeups = s.wakeups := rfl
@[simp] theorem emit_inputs (e : Event) : (s.emit e).inputs = s.inputs := rfl
@[simp] theorem emit_history (e : Event) : (s.emit e).history = e :: s.history := rfl
@[simp] theorem emit_reg (e : Event) (q : Reg) : (s.emit e).reg q = s.reg q := rfl
@[simp] theorem emit_readByte (e : Event) (a : Addr) : (s.emit e).readByte a = s.readByte a := rfl
@[simp] theorem emit_stackEntry (e : Event) (j : Nat) : (s.emit e).stackEntry j = s.stackEntry j := rfl

/-! ### takeFatal -/

@[simp] theorem takeFatal_mem (k : FatalKind) (w : Word) : (s.takeFatal k w).mem = s.mem := rfl
@[simp] theorem takeFatal_v (k : FatalKind) (w : Word) : (s.takeFatal k w).v = s.v := rfl
@[simp] theorem takeFatal_pc (k : FatalKind) (w : Word) : (s.takeFatal k w).pc = s.pc := rfl
@[simp] theorem takeFatal_i (k : FatalKind) (w : Word) : (s.takeFatal k w).i = s.i := rfl
@[simp] theorem takeFatal_dt (k : FatalKind) (w : Word) : (s.takeFatal k w).dt = s.dt := rfl
@[simp] theorem takeFatal_st (k : FatalKind) (w : Word) : (s.takeFatal k w).st = s.st := rfl
@[simp] theorem takeFatal_stack (k : FatalKind) (w : Word) : (s.takeFatal k w).stack = s.stack := rfl
@[simp] theorem takeFatal_sp (k : FatalKind) (w : Word) : (s.takeFatal k w).sp = s.sp := rfl
@[simp] theorem takeFatal_latch (k : FatalKind) (w : Word) : (s.takeFatal k w).latch = s.latch := rfl
@[simp] theorem takeFatal_run (k : FatalKind) (w : Word) : (s.takeFatal k w).run = .halted (.fatal k w s.pc) := rfl
@[simp] theorem takeFatal_lastTick (k : FatalKind) (w : Word) : (s.takeFatal k w).lastTick = s.lastTick := rfl
@[simp] theorem takeFatal_screen (k : FatalKind) (w : Word) : (s.takeFatal k w).screen = s.screen := rfl
@[simp] theorem takeFatal_audio (k : FatalKind) (w : Word) : (s.takeFatal k w).audio = s.audio := rfl
@[simp] theorem takeFatal_params (k : FatalKind) (w : Word) : (s.takeFatal k w).params = s.params := rfl
@[simp] theorem takeFatal_wakeups (k : FatalKind) (w : Word) : (s.takeFatal k w).wakeups = s.wakeups := rfl
@[simp] theorem takeFatal_inputs (k : FatalKind) (w : Word) : (s.takeFatal k w).inputs = s.inputs := rfl
@[simp] theorem takeFatal_history (k : FatalKind) (w : Word) : (s.takeFatal k w).history = .fatalReport k w s.pc :: s.history := rfl
@[simp] theorem takeFatal_reg (k : FatalKind) (w : Word) (q : Reg) : (s.takeFatal k w).reg q = s.reg q := rfl
@[simp] theorem takeFatal_readByte (k : FatalKind) (w : Word) (a : Addr) : (s.takeFatal k w).readByte a = s.readByte a := rfl
@[simp] theorem takeFatal_stackEntry (k : FatalKind) (w : Word) (j : Nat) : (s.takeFatal k w).stackEntry j = s.stackEntry j := rfl

/-! ### push -/

@[simp] theorem push_mem (t : Addr) : (s.push t).mem = s.mem := rfl
@[simp] theorem push_v (t : Addr) : (s.push t).v = s.v := rfl
@[simp] theorem push_pc (t : Addr) : (s.push t).pc = s.pc := rfl
@[simp] theorem push_i (t : Addr) : (s.push t).i = s.i := rfl
@[simp] theorem push_dt (t : Addr) : (s.push t).dt = s.dt := rfl
@[simp] theorem push_st (t : Addr) : (s.push t).st = s.st := rfl
@[simp] theorem push_stack (t : Addr) : (s.push t).stack = s.stack.setIfInBounds s.sp.val t := rfl
@[simp] theorem push_sp (t : Addr) : (s.push t).sp = s.sp + 1 := rfl
@[simp] theorem push_latch (t : Addr) : (s.push t).latch = s.latch := rfl
@[simp] theorem push_run (t : Addr) : (s.push t).run = s.run := rfl
@[simp] theorem push_lastTick (t : Addr) : (s.push t).lastTick = s.lastTick := rfl
@[simp] theorem push_screen (t : Addr) : (s.push t).screen = s.screen := rfl
@[simp] theorem push_audio (t : Addr) : (s.push t).audio = s.audio := rfl
@[simp] theorem push_params (t : Addr) : (s.push t).params = s.params := rfl
@[simp] theorem push_wakeups (t : Addr) : (s.push t).wakeups = s.wakeups := rfl
@[simp] theorem push_inputs (t : Addr) : (s.push t).inputs = s.inputs := rfl
@[simp] theorem push_history (t : Addr) : (s.push t).history = s.history := rfl
@[simp] theorem push_reg (t : Addr) (q : Reg) : (s.push t).reg q = s.reg q := rfl
@[simp] theorem push_readByte (t : Addr) (a : Addr) : (s.push t).readByte a = s.readByte a := rfl

/-! ### pop -/

@[simp] theorem pop_mem : s.pop.mem = s.mem := rfl
@[simp] theorem pop_v : s.pop.v = s.v := rfl
@[simp] theorem pop_pc : s.pop.pc = s.pc := rfl
@[simp] theorem pop_i : s.pop.i = s.i := rfl
@[simp] theorem pop_dt : s.pop.dt = s.dt := rfl
@[simp] theorem pop_st : s.pop.st = s.st := rfl
@[simp] theorem pop_stack : s.pop.stack = s.stack := rfl
@[simp] theorem pop_sp : s.pop.sp = s.sp - 1 := rfl
@[simp] theorem pop_latch : s.pop.latch = s.latch := rfl
@[simp] theorem pop_run : s.pop.run = s.run := rfl
@[simp] theorem pop_lastTick : s.pop.lastTick = s.lastTick := rfl
@[simp] theorem pop_screen : s.pop.screen = s.screen := rfl
@[simp] theorem pop_audio : s.pop.audio = s.audio := rfl
@[simp] theorem pop_params : s.pop.params = s.params := rfl
@[simp] theorem pop_wakeups : s.pop.wakeups = s.wakeups := rfl
@[simp] theorem pop_inputs : s.pop.inputs = s.inputs := rfl
@[simp] theorem pop_history : s.pop.history = s.history := rfl
@[simp] theorem pop_reg (q : Reg) : s.pop.reg q = s.reg q := rfl
@[simp] theorem pop_readByte (a : Addr) : s.pop.readByte a = s.readByte a := rfl
@[simp] theorem pop_stackEntry (j : Nat) : s.pop.stackEntry j = s.stackEntry j := rfl

/-! ### storeAtI -/

@[simp] theorem storeAtI_mem (bs : List Byte) : (s.storeAtI bs).mem = s.mem.writeList s.i bs := rfl
@[simp] theorem storeAtI_v (bs : List Byte) : (s.storeAtI bs).v = s.v := rfl
@[simp] theorem storeAtI_pc (bs : List Byte) : (s.storeAtI bs).pc = s.pc := rfl
@[simp] theorem storeAtI_i (bs : List Byte) : (s.storeAtI bs).i = s.i := rfl
@[simp] theorem storeAtI_dt (bs : List Byte) : (s.storeAtI bs).dt = s.dt := rfl
@[simp] theorem storeAtI_st (bs : List Byte) : (s.storeAtI bs).st = s.st := rfl
@[simp] theorem storeAtI_stack (bs : List Byte) : (s.storeAtI bs).stack = s.stack := rfl
@[simp] theorem storeAtI_sp (bs : List Byte) : (s.storeAtI bs).sp = s.sp := rfl
@[simp] theorem storeAtI_latch (bs : List Byte) : (s.storeAtI bs).latch = s.latch := rfl
@[simp] theorem storeAtI_run (bs : List Byte) : (s.storeAtI bs).run = s.run := rfl
@[simp] theorem storeAtI_lastTick (bs : List Byte) : (s.storeAtI bs).lastTick = s.lastTick := rfl
@[simp] theorem storeAtI_screen (bs : List Byte) : (s.storeAtI bs).screen = s.screen := rfl
@[simp] theorem storeAtI_audio (bs : List Byte) : (s.storeAtI bs).audio = s.audio := rfl
@[simp] theorem storeAtI_params (bs : List Byte) : (s.storeAtI bs).params = s.params := rfl
@[simp] theorem storeAtI_wakeups (bs : List Byte) : (s.storeAtI bs).wakeups = s.wakeups := rfl
@[simp] theorem storeAtI_inputs (bs : List Byte) : (s.storeAtI bs).inputs = s.inputs := rfl
@[simp] theorem storeAtI_history (bs : List Byte) : (s.storeAtI bs).history = s.history := rfl
@[simp] theorem storeAtI_reg (bs : List Byte) (q : Reg) : (s.storeAtI bs).reg q = s.reg q := rfl
@[simp] theorem storeAtI_stackEntry (bs : List Byte) (j : Nat) : (s.storeAtI bs).stackEntry j = s.stackEntry j := rfl

/-! ### displayBlank -/

@[simp] theorem displayBlank_mem : s.displayBlank.mem = s.mem := rfl
@[simp] theorem displayBlank_v : s.displayBlank.v = s.v := rfl
@[simp] theorem displayBlank_pc : s.displayBlank.pc = s.pc := rfl
@[simp] theorem displayBlank_i : s.displayBlank.i = s.i := rfl
@[simp] theorem displayBlank_dt : s.displayBlank.dt = s.dt := rfl
@[simp] theorem displayBlank_st : s.displayBlank.st = s.st := rfl
@[simp] theorem displayBlank_stack : s.displayBlank.stack = s.stack := rfl
@[simp] theorem displayBlank_sp : s.displayBlank.sp = s.sp := rfl
@[simp] theorem displayBlank_latch : s.displayBlank.latch = s.latch := rfl
@[simp] theorem displayBlank_run : s.displayBlank.run = s.run := rfl
@[simp] theorem displayBlank_lastTick : s.displayBlank.lastTick = s.lastTick := rfl
@[simp] theorem displayBlank_audio : s.displayBlank.audio = s.audio := rfl
@[simp] theorem displayBlank_params : s.displayBlank.params = s.params := rfl
@[simp] theorem displayBlank_wakeups : s.displayBlank.wakeups = s.wakeups := rfl
@[simp] theorem displayBlank_inputs : s.displayBlank.inputs = s.inputs := rfl
@[simp] theorem displayBlank_history : s.displayBlank.history = .blank :: s.history := rfl
@[simp] theorem displayBlank_reg (q : Reg) : s.displayBlank.reg q = s.reg q := rfl
@[simp] theorem displayBlank_readByte (a : Addr) : s.displayBlank.readByte a = s.readByte a := rfl
@[simp] theorem displayBlank_stackEntry (j : Nat) : s.displayBlank.stackEntry j = s.stackEntry j := rfl

/-! ### displayDraw -/

@[simp] theorem displayDraw_mem (x y : Byte) (rows : List Byte) : (s.displayDraw x y rows).2.mem = s.mem := rfl
@[simp] theorem displayDraw_v (x y : Byte) (rows : List Byte) : (s.displayDraw x y rows).2.v = s.v := rfl
@[simp] theorem displayDraw_pc (x y : Byte) (rows : List Byte) : (s.displayDraw x y rows).2.pc = s.pc := rfl
@[simp] theorem displayDraw_i (x y : Byte) (rows : List Byte) : (s.displayDraw x y rows).2.i = s.i := rfl
@[simp] theorem displayDraw_dt (x y : Byte) (rows : List Byte) : (s.displayDraw x y rows).2.dt = s.dt := rfl
@[simp] theorem displayDraw_st (x y : Byte) (rows : List Byte) : (s.displayDraw x y rows).2.st = s.st := rfl
@[simp] theorem displayDraw_stack (x y : Byte) (rows : List Byte) : (s.displayDraw x y rows).2.stack = s.stack := rfl
@[simp] theorem displayDraw_sp (x y : Byte) (rows : List Byte) : (s.displayDraw x y rows).2.sp = s.sp := rfl
@[simp] theorem displayDraw_latch (x y : Byte) (rows : List Byte) : (s.displayDraw x y rows).2.latch = s.latch := rfl
@[simp] theorem displayDraw_run (x y : Byte) (rows : List Byte) : (s.displayDraw x y rows).2.run = s.run := rfl
@[simp] theorem displayDraw_lastTick (x y : Byte) (rows : List Byte) : (s.displayDraw x y rows).2.lastTick = s.lastTick := rfl
@[simp] theorem displayDraw_screen (x y : Byte) (rows : List Byte) : (s.displayDraw x y rows).2.screen = s.drawScreen x y rows := rfl
@[simp] theorem displayDraw_audio (x y : Byte) (rows : List Byte) : (s.displayDraw x y rows).2.audio = s.audio := rfl
@[simp] theorem displayDraw_params (x y : Byte) (rows : List Byte) : (s.displayDraw x y rows).2.params = s.params := rfl
@[simp] theorem displayDraw_wakeups (x y : Byte) (rows : List Byte) : (s.displayDraw x y rows).2.wakeups = s.wakeups := rfl
@[simp] theorem displayDraw_inputs (x y : Byte) (rows : List Byte) : (s.displayDraw x y rows).2.inputs = s.inputs.afterDraw s.params.display := rfl
@[simp] theorem displayDraw_history (x y : Byte) (rows : List Byte) : (s.displayDraw x y rows).2.history = .draw x y rows (s.drawAnswer x y rows) :: s.history := rfl
@[simp] theorem displayDraw_reg (x y : Byte) (rows : List Byte) (q : Reg) : (s.displayDraw x y rows).2.reg q = s.reg q := rfl
@[simp] theorem displayDraw_readByte (x y : Byte) (rows : List Byte) (a : Addr) : (s.displayDraw x y rows).2.readByte a = s.readByte a := rfl
@[simp] theorem displayDraw_stackEntry (x y : Byte) (rows : List Byte) (j : Nat) : (s.displayDraw x y rows).2.stackEntry j = s.stackEntry j := rfl

/-! ### isKeyPressed -/

@[simp] theorem isKeyPressed_mem (k : Key) : (s.isKeyPressed k).2.mem = s.mem := rfl
@[simp] theorem isKeyPressed_v (k : Key) : (s.isKeyPressed k).2.v = s.v := rfl
@[simp] theorem isKeyPressed_pc (k : Key) : (s.isKeyPressed k).2.pc = s.pc := rfl
@[simp] theorem isKeyPressed_i (k : Key) : (s.isKeyPressed k).2.i = s.i := rfl
@[simp] theorem isKeyPressed_dt (k : Key) : (s.isKeyPressed k).2.dt = s.dt := rfl
@[simp] theorem isKeyPressed_st (k : Key) : (s.isKeyPressed k).2.st = s.st := rfl
@[simp] theorem isKeyPressed_stack (k : Key) : (s.isKeyPressed k).2.stack = s.stack := rfl
@[simp] theorem isKeyPressed_sp (k : Key) : (s.isKeyPressed k).2.sp = s.sp := rfl
@[simp] theorem isKeyPressed_latch (k : Key) : (s.isKeyPressed k).2.latch = s.latch := rfl
@[simp] theorem isKeyPressed_run (k : Key) : (s.isKeyPressed k).2.run = s.run := rfl
@[simp] theorem isKeyPressed_lastTick (k : Key) : (s.isKeyPressed k).2.lastTick = s.lastTick := rfl
@[simp] theorem isKeyPressed_screen (k : Key) : (s.isKeyPressed k).2.screen = s.screen := rfl
@[simp] theorem isKeyPressed_audio (k : Key) : (s.isKeyPressed k).2.audio = s.audio := rfl
@[simp] theorem isKeyPressed_params (k : Key) : (s.isKeyPressed k).2.params = s.params := rfl
@[simp] theorem isKeyPressed_wakeups (k : Key) : (s.isKeyPressed k).2.wakeups = s.wakeups := rfl
@[simp] theorem isKeyPressed_inputs (k : Key) : (s.isKeyPressed k).2.inputs = s.inputs.afterKey := rfl
@[simp] theorem isKeyPressed_history (k : Key) : (s.isKeyPressed k).2.history = .isKeyPressed k (s.inputs.keySample.isDown k) :: s.history := rfl
@[simp] theorem isKeyPressed_reg (k : Key) (q : Reg) : (s.isKeyPressed k).2.reg q = s.reg q := rfl
@[simp] theorem isKeyPressed_readByte (k : Key) (a : Addr) : (s.isKeyPressed k).2.readByte a = s.readByte a := rfl
@[simp] theorem isKeyPressed_stackEntry (k : Key) (j : Nat) : (s.isKeyPressed k).2.stackEntry j = s.stackEntry j := rfl

/-! ### getPressedKey -/

@[simp] theorem getPressedKey_mem : s.getPressedKey.2.mem = s.mem := rfl
@[simp] theorem getPressedKey_v : s.getPressedKey.2.v = s.v := rfl
@[simp] theorem getPressedKey_pc : s.getPressedKey.2.pc = s.pc := rfl
@[simp] theorem getPressedKey_i : s.getPressedKey.2.i = s.i := rfl
@[simp] theorem getPressedKey_dt : s.getPressedKey.2.dt = s.dt := rfl
@[simp] theorem getPressedKey_st : s.getPressedKey.2.st = s.st := rfl
@[simp] theorem getPressedKey_stack : s.getPressedKey.2.stack = s.stack := rfl
@[simp] theorem getPressedKey_sp : s.getPressedKey.2.sp = s.sp := rfl
@[simp] theorem getPressedKey_latch : s.getPressedKey.2.latch = s.latch := rfl
@[simp] theorem getPressedKey_run : s.getPressedKey.2.run = s.run := rfl
@[simp] theorem getPressedKey_lastTick : s.getPressedKey.2.lastTick = s.lastTick := rfl
@[simp] theorem getPressedKey_screen : s.getPressedKey.2.screen = s.screen := rfl
@[simp] theorem getPressedKey_audio : s.getPressedKey.2.audio = s.audio := rfl
@[simp] theorem getPressedKey_params : s.getPressedKey.2.params = s.params := rfl
@[simp] theorem getPressedKey_wakeups : s.getPressedKey.2.wakeups = s.wakeups := rfl
@[simp] theorem getPressedKey_inputs : s.getPressedKey.2.inputs = s.inputs.afterKey := rfl
@[simp] theorem getPressedKey_history : s.getPressedKey.2.history = .getPressedKey s.inputs.keySample.pressed :: s.history := rfl
@[simp] theorem getPressedKey_reg (q : Reg) : s.getPressedKey.2.reg q = s.reg q := rfl
@[simp] theorem getPressedKey_readByte (a : Addr) : s.getPressedKey.2.readByte a = s.readByte a := rfl
@[simp] theorem getPressedKey_stackEntry (j : Nat) : s.getPressedKey.2.stackEntry j = s.stackEntry j := rfl

/-! ### randByte -/

@[simp] theorem randByte_mem : s.randByte.2.mem = s.mem := rfl
@[simp] theorem randByte_v : s.randByte.2.v = s.v := rfl
@[simp] theorem randByte_pc : s.randByte.2.pc = s.pc := rfl
@[simp] theorem randByte_i : s.randByte.2.i = s.i := rfl
@[simp] theorem randByte_dt : s.randByte.2.dt = s.dt := rfl
@[simp] theorem randByte_st : s.randByte.2.st = s.st := rfl
@[simp] theorem randByte_stack : s.randByte.2.stack = s.stack := rfl
@[simp] theorem randByte_sp : s.randByte.2.sp = s.sp := rfl
@[simp] theorem randByte_latch : s.randByte.2.latch = s.latch := rfl
@[simp] theorem randByte_run : s.randByte.2.run = s.run := rfl
@[simp] theorem randByte_lastTick : s.randByte.2.lastTick = s.lastTick := rfl
@[simp] theorem randByte_screen : s.randByte.2.screen = s.screen := rfl
@[simp] theorem randByte_audio : s.randByte.2.audio = s.audio := rfl
@[simp] theorem randByte_params : s.randByte.2.params = s.params := rfl
@[simp] theorem randByte_wakeups : s.randByte.2.wakeups = s.wakeups := rfl
@[simp] theorem randByte_inputs : s.randByte.2.inputs = s.inputs.afterRand := rfl
@[simp] theorem randByte_history : s.randByte.2.history = .rand s.inputs.randByte :: s.history := rfl
@[simp] theorem randByte_reg (q : Reg) : s.randByte.2.reg q = s.reg q := rfl
@[simp] theorem randByte_readByte (a : Addr) : s.randByte.2.readByte a = s.readByte a := rfl
@[simp] theorem randByte_stackEntry (j : Nat) : s.randByte.2.stackEntry j = s.stackEntry j := rfl

/-! ### decrementTimers -/

@[simp] theorem decrementTimers_mem : s.decrementTimers.mem = s.mem := rfl
@[simp] theorem decrementTimers_v : s.decrementTimers.v = s.v := rfl
@[simp] theorem decrementTimers_pc : s.decrementTimers.pc = s.pc := rfl
@[simp] theorem decrementTimers_i : s.decrementTimers.i = s.i := rfl
@[simp] theorem decrementTimers_dt : s.decrementTimers.dt = decrementTimer s.dt := rfl
@[simp] theorem decrementTimers_st : s.decrementTimers.st = decrementTimer s.st := rfl
@[simp] theorem decrementTimers_stack : s.decrementTimers.stack = s.stack := rfl
@[simp] theorem decrementTimers_sp : s.decrementTimers.sp = s.sp := rfl
@[simp] theorem decrementTimers_latch : s.decrementTimers.latch = s.latch := rfl
@[simp] theorem decrementTimers_run : s.decrementTimers.run = s.run := rfl
@[simp] theorem decrementTimers_lastTick : s.decrementTimers.lastTick = s.lastTick := rfl
@[simp] theorem decrementTimers_screen : s.decrementTimers.screen = s.screen := rfl
@[simp] theorem decrementTimers_audio : s.decrementTimers.audio = s.audio := rfl
@[simp] theorem decrementTimers_params : s.decrementTimers.params = s.params := rfl
@[simp] theorem decrementTimers_wakeups : s.decrementTimers.wakeups = s.wakeups := rfl
@[simp] theorem decrementTimers_inputs : s.decrementTimers.inputs = s.inputs := rfl
@[simp] theorem decrementTimers_history : s.decrementTimers.history = s.history := rfl
@[simp] theorem decrementTimers_reg (q : Reg) : s.decrementTimers.reg q = s.reg q := rfl
@[simp] theorem decrementTimers_readByte (a : Addr) : s.decrementTimers.readByte a = s.readByte a := rfl
@[simp] theorem decrementTimers_stackEntry (j : Nat) : s.decrementTimers.stackEntry j = s.stackEntry j := rfl

/-! ### audioPlay -/

@[simp] theorem audioPlay_mem : s.audioPlay.mem = s.mem := rfl
@[simp] theorem audioPlay_v : s.audioPlay.v = s.v := rfl
@[simp] theorem audioPlay_pc : s.audioPlay.pc = s.pc := rfl
@[simp] theorem audioPlay_i : s.audioPlay.i = s.i := rfl
@[simp] theorem audioPlay_dt : s.audioPlay.dt = s.dt := rfl
@[simp] theorem audioPlay_st : s.audioPlay.st = s.st := rfl
@[simp] theorem audioPlay_stack : s.audioPlay.stack = s.stack := rfl
@[simp] theorem audioPlay_sp : s.audioPlay.sp = s.sp := rfl
@[simp] theorem audioPlay_latch : s.audioPlay.latch = s.latch := rfl
@[simp] theorem audioPlay_run : s.audioPlay.run = s.run := rfl
@[simp] theorem audioPlay_lastTick : s.audioPlay.lastTick = s.lastTick := rfl
@[simp] theorem audioPlay_screen : s.audioPlay.screen = s.screen := rfl
@[simp] theorem audioPlay_audio : s.audioPlay.audio = .playing := rfl
@[simp] theorem audioPlay_params : s.audioPlay.params = s.params := rfl
@[simp] theorem audioPlay_wakeups : s.audioPlay.wakeups = s.wakeups := rfl
@[simp] theorem audioPlay_inputs : s.audioPlay.inputs = s.inputs := rfl
@[simp] theorem audioPlay_history : s.audioPlay.history = .play :: s.history := rfl
@[simp] theorem audioPlay_reg (q : Reg) : s.audioPlay.reg q = s.reg q := rfl
@[simp] theorem audioPlay_readByte (a : Addr) : s.audioPlay.readByte a = s.readByte a := rfl
@[simp] theorem audioPlay_stackEntry (j : Nat) : s.audioPlay.stackEntry j = s.stackEntry j := rfl

/-! ### audioPause -/

@[simp] theorem audioPause_mem : s.audioPause.mem = s.mem := rfl
@[simp] theorem audioPause_v : s.audioPause.v = s.v := rfl
@[simp] theorem audioPause_pc : s.audioPause.pc = s.pc := rfl
@[simp] theorem audioPause_i : s.audioPause.i = s.i := rfl
@[simp] theorem audioPause_dt : s.audioPause.dt = s.dt := rfl
@[simp] theorem audioPause_st : s.audioPause.st = s.st := rfl
@[simp] theorem audioPause_stack : s.audioPause.stack = s.stack := rfl
@[simp] theorem audioPause_sp : s.audioPause.sp = s.sp := rfl
@[simp] theorem audioPause_latch : s.audioPause.latch = s.latch := rfl
@[simp] theorem audioPause_run : s.audioPause.run = s.run := rfl
@[simp] theorem audioPause_lastTick : s.audioPause.lastTick = s.lastTick := rfl
@[simp] theorem audioPause_screen : s.audioPause.screen = s.screen := rfl
@[simp] theorem audioPause_audio : s.audioPause.audio = .paused := rfl
@[simp] theorem audioPause_params : s.audioPause.params = s.params := rfl
@[simp] theorem audioPause_wakeups : s.audioPause.wakeups = s.wakeups := rfl
@[simp] theorem audioPause_inputs : s.audioPause.inputs = s.inputs := rfl
@[simp] theorem audioPause_history : s.audioPause.history = .pause :: s.history := rfl
@[simp] theorem audioPause_reg (q : Reg) : s.audioPause.reg q = s.reg q := rfl
@[simp] theorem audioPause_readByte (a : Addr) : s.audioPause.readByte a = s.readByte a := rfl
@[simp] theorem audioPause_stackEntry (j : Nat) : s.audioPause.stackEntry j = s.stackEntry j := rfl

/-! ### displayRender -/

@[simp] theorem displayRender_mem : s.displayRender.mem = s.mem := rfl
@[simp] theorem displayRender_v : s.displayRender.v = s.v := rfl
@[simp] theorem displayRender_pc : s.displayRender.pc = s.pc := rfl
@[simp] theorem displayRender_i : s.displayRender.i = s.i := rfl
@[simp] theorem displayRender_dt : s.displayRender.dt = s.dt := rfl
@[simp] theorem displayRender_st : s.displayRender.st = s.st := rfl
@[simp] theorem displayRender_stack : s.displayRender.stack = s.stack := rfl
@[simp] theorem displayRender_sp : s.displayRender.sp = s.sp := rfl
@[simp] theorem displayRender_latch : s.displayRender.latch = s.latch := rfl
@[simp] theorem displayRender_run : s.displayRender.run = s.run := rfl
@[simp] theorem displayRender_lastTick : s.displayRender.lastTick = s.lastTick := rfl
@[simp] theorem displayRender_screen : s.displayRender.screen = s.screen := rfl
@[simp] theorem displayRender_audio : s.displayRender.audio = s.audio := rfl
@[simp] theorem displayRender_params : s.displayRender.params = s.params := rfl
@[simp] theorem displayRender_wakeups : s.displayRender.wakeups = s.wakeups := rfl
@[simp] theorem displayRender_inputs : s.displayRender.inputs = s.inputs := rfl
@[simp] theorem displayRender_history : s.displayRender.history = .render :: s.history := rfl
@[simp] theorem displayRender_reg (q : Reg) : s.displayRender.reg q = s.reg q := rfl
@[simp] theorem displayRender_readByte (a : Addr) : s.displayRender.readByte a = s.readByte a := rfl
@[simp] theorem displayRender_stackEntry (j : Nat) : s.displayRender.stackEntry j = s.stackEntry j := rfl

/-! ### cancel -/

@[simp] theorem cancel_mem : s.cancel.mem = s.mem := rfl
@[simp] theorem cancel_v : s.cancel.v = s.v := rfl
@[simp] theorem cancel_pc : s.cancel.pc = s.pc := rfl
@[simp] theorem cancel_i : s.cancel.i = s.i := rfl
@[simp] theorem cancel_dt : s.cancel.dt = s.dt := rfl
@[simp] theorem cancel_st : s.cancel.st = s.st := rfl
@[simp] theorem cancel_stack : s.cancel.stack = s.stack := rfl
@[simp] theorem cancel_sp : s.cancel.sp = s.sp := rfl
@[simp] theorem cancel_latch : s.cancel.latch = s.latch := rfl
@[simp] theorem cancel_run : s.cancel.run = .halted .cancelled := rfl
@[simp] theorem cancel_lastTick : s.cancel.lastTick = s.lastTick := rfl
@[simp] theorem cancel_screen : s.cancel.screen = s.screen := rfl
@[simp] theorem cancel_audio : s.cancel.audio = s.audio := rfl
@[simp] theorem cancel_params : s.cancel.params = s.params := rfl
@[simp] theorem cancel_wakeups : s.cancel.wakeups = s.wakeups := rfl
@[simp] theorem cancel_inputs : s.cancel.inputs = s.inputs := rfl
@[simp] theorem cancel_history : s.cancel.history = s.history := rfl
@[simp] theorem cancel_reg (q : Reg) : s.cancel.reg q = s.reg q := rfl
@[simp] theorem cancel_readByte (a : Addr) : s.cancel.readByte a = s.readByte a := rfl
@[simp] theorem cancel_stackEntry (j : Nat) : s.cancel.stackEntry j = s.stackEntry j := rfl

/-! ### The outside world after a query -/

@[simp] theorem Inputs.afterRand_rand (e : Inputs) : e.afterRand.rand = e.rand.tail := rfl
@[simp] theorem Inputs.afterRand_keys (e : Inputs) : e.afterRand.keys = e.keys := rfl
@[simp] theorem Inputs.afterRand_collision (e : Inputs) : e.afterRand.collision = e.collision := rfl
@[simp] theorem Inputs.afterRand_tick (e : Inputs) : e.afterRand.tick = e.tick := rfl
@[simp] theorem Inputs.afterRand_cancelAfter (e : Inputs) : e.afterRand.cancelAfter = e.cancelAfter := rfl
@[simp] theorem Inputs.afterRand_draws (e : Inputs) : e.afterRand.draws = e.draws + 1 := rfl
@[simp] theorem Inputs.afterKey_rand (e : Inputs) : e.afterKey.rand = e.rand := rfl
@[simp] theorem Inputs.afterKey_keys (e : Inputs) : e.afterKey.keys = e.keys.tail := rfl
@[simp] theorem Inputs.afterKey_collision (e : Inputs) : e.afterKey.collision = e.collision := rfl
@[simp] theorem Inputs.afterKey_tick (e : Inputs) : e.afterKey.tick = e.tick := rfl
@[simp] theorem Inputs.afterKey_cancelAfter (e : Inputs) : e.afterKey.cancelAfter = e.cancelAfter := rfl
@[simp] theorem Inputs.afterKey_draws (e : Inputs) : e.afterKey.draws = e.draws + 1 := rfl
@[simp] theorem Inputs.afterDraw_rand (e : Inputs) (d : DisplayModel) : (e.afterDraw d).rand = e.rand := by cases d <;> rfl
@[simp] theorem Inputs.afterDraw_keys (e : Inputs) (d : DisplayModel) : (e.afterDraw d).keys = e.keys := by cases d <;> rfl
@[simp] theorem Inputs.afterDraw_tick (e : Inputs) (d : DisplayModel) : (e.afterDraw d).tick = e.tick := by cases d <;> rfl
@[simp] theorem Inputs.afterDraw_cancelAfter (e : Inputs) (d : DisplayModel) : (e.afterDraw d).cancelAfter = e.cancelAfter := by cases d <;> rfl
@[simp] theorem Inputs.afterTickDecision_rand (e : Inputs) (t : TimingModel) : (e.afterTickDecision t).rand = e.rand := by cases t <;> rfl
@[simp] theorem Inputs.afterTickDecision_keys (e : Inputs) (t : TimingModel) : (e.afterTickDecision t).keys = e.keys := by cases t <;> rfl
@[simp] theorem Inputs.afterTickDecision_collision (e : Inputs) (t : TimingModel) : (e.afterTickDecision t).collision = e.collision := by cases t <;> rfl
@[simp] theorem Inputs.afterTickDecision_cancelAfter (e : Inputs) (t : TimingModel) : (e.afterTickDecision t).cancelAfter = e.cancelAfter := by cases t <;> rfl
@[simp] theorem Inputs.afterDraw_oracle_collision (e : Inputs) : (e.afterDraw .oracle).collision = e.collision.tail := rfl
@[simp] theorem Inputs.afterTickDecision_abstract_tick (e : Inputs) :
    (e.afterTickDecision .abstract).tick = e.tick.tail := rfl
@[simp] theorem Inputs.afterTickDecision_ideal (e : Inputs) : e.afterTickDecision .ideal = e := rfl

/-! ### The answers of queries -/

@[simp] theorem displayDraw_answer (x y : Byte) (rows : List Byte) :
    (s.displayDraw x y rows).1 = s.drawAnswer x y rows := rfl
@[simp] theorem isKeyPressed_answer (k : Key) : (s.isKeyPressed k).1 = s.inputs.keySample.isDown k := rfl
@[simp] theorem getPressedKey_answer : s.getPressedKey.1 = s.inputs.keySample.pressed := rfl
@[simp] theorem randByte_answer : s.randByte.1 = s.inputs.randByte := rfl

end Sys2Proof.Machine
end

