-- ==== Sys2Proof/Laws/Memory.lean ====
section
/-! SUPPORT. The memory unit: a read after a write, for one byte and for a run of bytes, and that every memory
operation keeps the canonical form. The read laws hold of every list, canonical or not. -/

namespace Sys2Proof.Machine

theorem Memory.find_insert (a : Nat) (b : Byte) (c : Nat) (m : Memory) (h : m.find a = none) :
    (Memory.insert a b m).find c = if c = a then some b else m.find c := by
  induction m with
  | nil => simp [Memory.insert, Memory.find, eq_comm]
  | cons d ds ih =>
    simp only [Memory.find] at h
    split at h
    · cases h
    · rename_i hd
      simp only [Memory.insert]
      split
      · simp only [Memory.find, eq_comm]
      · simp only [Memory.find, ih h]
        by_cases hc : d.1 = c
        · subst hc; simp [hd]
        · simp [hc]

theorem Memory.find_filter (a c : Nat) (m : Memory) :
    Memory.find (m.filter (fun d => d.1 != a)) c = if c = a then none else m.find c := by
  induction m with
  | nil => simp [Memory.find]
  | cons d ds ih =>
    by_cases hd : d.1 = a <;> by_cases hc : c = a
    · simpa [hd, hc] using ih
    · have : d.1 ≠ c := by omega
      simpa [hd, hc, Memory.find, this, Ne.symm hc] using ih
    · have : d.1 ≠ c := by omega
      simp_all [Memory.find]
    · simp_all [Memory.find]

/-- A read after a byte write: the byte written, at its address and nowhere else (R52, R59, R69). -/
theorem Memory.read_write (m : Memory) (a : Addr) (b : Byte) (c : Addr) :
    (m.write a b).read c = if c = a then b else m.read c := by
  have key : c.toNat = a.toNat ↔ c = a := BitVec.toNat_inj
  have gone : Memory.find (m.filter (fun d => d.1 != a.toNat)) a.toNat = none := by
    simp [Memory.find_filter]
  unfold Memory.write Memory.read
  split
  · rw [Memory.find_filter]
    by_cases h : c = a
    · subst h; simp_all
    · simp [key, h]
  · rw [Memory.find_insert _ _ _ _ gone, Memory.find_filter]
    by_cases h : c = a
    · subst h; simp
    · simp [key, h]

/-- A run of fewer than 4096 byte writes leaves the addresses outside it alone. -/
theorem Memory.read_writeList_outside (bs : List Byte) (m : Memory) (a c : Addr)
    (h : ∀ k < bs.length, c ≠ a + BitVec.ofNat 12 k) : (m.writeList a bs).read c = m.read c := by
  induction bs generalizing m a with
  | nil => rfl
  | cons b bs ih =>
    have h0 : c ≠ a := by simpa using h 0 (by simp)
    have hs : ∀ k < bs.length, c ≠ (a + 1) + BitVec.ofNat 12 k := fun k hk => by
      have := h (k + 1) (by simpa using hk)
      rwa [Nat.add_comm k 1, BitVec.ofNat_add, ← BitVec.add_assoc] at this
    simp only [Memory.writeList, ih _ _ hs, Memory.read_write, if_neg h0]

/-- A run of at most 4096 byte writes stores byte k at its k-th address, modulo 4096 (R51, R64). -/
theorem Memory.read_writeList_inside (bs : List Byte) (m : Memory) (a : Addr) (hlen : bs.length ≤ 4096)
    (k : Nat) (hk : k < bs.length) : (m.writeList a bs).read (a + BitVec.ofNat 12 k) = bs[k] := by
  induction bs generalizing m a k with
  | nil => simp at hk
  | cons b bs ih =>
    simp only [List.length_cons] at hlen hk
    cases k with
    | zero =>
      rw [Memory.writeList, Memory.read_writeList_outside]
      · simp [Memory.read_write]
      · intro j hj heq
        have := congrArg BitVec.toNat heq
        simp [BitVec.toNat_add] at this
        omega
    | succ k =>
      have := ih (m.write a b) (a + 1) (by omega) k (by omega)
      rw [BitVec.add_assoc, show (1 : BitVec 12) = BitVec.ofNat 12 1 from rfl, ← BitVec.ofNat_add,
        Nat.add_comm 1 k] at this
      simpa [Memory.writeList] using this

theorem Memory.mem_insert (a : Nat) (b : Byte) (m : Memory) (c : Host.Cell) :
    c ∈ Memory.insert a b m ↔ c = (a, b) ∨ c ∈ m := by
  induction m with
  | nil => simp [Memory.insert]
  | cons d ds ih =>
    simp only [Memory.insert]
    split
    · simp
    · simp [ih, or_left_comm]

theorem Memory.insert_sorted (a : Nat) (b : Byte) (m : Memory) (hs : m.Pairwise (fun c d => c.1 < d.1))
    (ha : ∀ c ∈ m, c.1 ≠ a) : (Memory.insert a b m).Pairwise (fun c d => c.1 < d.1) := by
  induction m with
  | nil => simp [Memory.insert]
  | cons d ds ih =>
    obtain ⟨hd, hds⟩ := List.pairwise_cons.mp hs
    simp only [Memory.insert]
    split
    · rename_i hlt
      exact List.pairwise_cons.mpr ⟨fun c hc => by
        rcases List.mem_cons.mp hc with rfl | hc
        · exact hlt
        · exact hlt.trans (hd c hc), hs⟩
    · rename_i hge
      refine List.pairwise_cons.mpr ⟨fun c hc => ?_, ih hds (fun c hc => ha c (by simp [hc]))⟩
      rcases (Memory.mem_insert a b ds c).mp hc with rfl | hc
      · have := ha d (by simp); simp only; omega
      · exact hd c hc

/-- A byte write keeps the canonical form. -/
theorem Memory.wf_write (m : Memory) (a : Addr) (b : Byte) (h : m.wf) : (m.write a b).wf := by
  obtain ⟨hs, hc⟩ := h
  have hsf := hs.filter (fun c : Host.Cell => c.1 != a.toNat)
  have hcf : ∀ c ∈ m.filter (fun d => d.1 != a.toNat), c.1 < 4096 ∧ c.2 ≠ Memory.unlisted c.1 :=
    fun c hm => hc c (List.mem_of_mem_filter hm)
  unfold Memory.write
  split
  · exact ⟨hsf, hcf⟩
  · rename_i hb
    refine ⟨Memory.insert_sorted _ _ _ hsf (fun c hm => by simpa using (List.mem_filter.mp hm).2), fun c hm => ?_⟩
    rcases (Memory.mem_insert _ _ _ c).mp hm with rfl | hm
    · exact ⟨a.isLt, hb⟩
    · exact hcf c hm

/-- A run of byte writes keeps the canonical form. -/
theorem Memory.wf_writeList (bs : List Byte) (m : Memory) (a : Addr) (h : m.wf) : (m.writeList a bs).wf := by
  induction bs generalizing m a with
  | nil => exact h
  | cons b bs ih => exact ih _ _ (Memory.wf_write m a b h)

/-- A word write keeps the canonical form. -/
theorem Memory.wf_write16 (m : Memory) (a : Addr) (w : Word) (h : m.wf) : (m.write16 a w).wf :=
  Memory.wf_write _ _ _ (Memory.wf_write _ _ _ h)

/-- Memory as it is created is in canonical form, and so is a loaded image. -/
theorem createMemory_wf (b : BootParams) : (createMemory b).wf := Memory.wf_writeList _ _ _ (by simp [Memory.wf])

theorem loadProgram_wf (m m' : Memory) (bytes : List Byte) (h : m.wf) (hl : loadProgram m bytes = .ok m') : m'.wf := by
  unfold loadProgram at hl
  split at hl
  · cases hl; exact Memory.wf_writeList _ _ _ h
  · cases hl

/-- Reset memory is in canonical form. -/
theorem reset_mem_wf : State.reset.mem.wf := by decide

/-- A read sees an unlisted address as the reset contents (R55 to R57). -/
theorem reset_readByte (a : Addr) : State.reset.readByte a = Memory.unlisted a.toNat := rfl

end Sys2Proof.Machine
end

