-- ==== Sys2Proof/Laws/Ops.lean ====
section
/-! SUPPORT. One lemma per shared operation over registers, flags, the stack and memory at I: what it answers and what
it leaves. Later proofs cite these and do not unfold the operations. -/

namespace Sys2Proof.Machine

variable (s : State)

/-! ### Registers -/

/-- A register read after a register write (R18, R23: no register is hardwired). -/
@[simp] theorem reg_setReg (r q : Reg) (b : Byte) : (s.setReg r b).reg q = if q = r then b else s.reg q := by
  simp only [State.setReg, State.reg, Vector.get_eq_getElem, Vector.getElem_set]
  by_cases h : q = r
  · simp [h]
  · rw [if_neg (by simpa [Fin.ext_iff] using Ne.symm h), if_neg h]

/-- Result first, flag last (R112). -/
@[simp] theorem reg_setRegFlag (x q : Reg) (b : Byte) (f : Bool) :
    (s.setRegFlag x b f).reg q = if q = vf then flagByte f else if q = x then b else s.reg q := by
  simp [State.setRegFlag]

@[simp] theorem flagByte_toNat (f : Bool) : (flagByte f).toNat = if f then 1 else 0 := by cases f <;> rfl

@[simp] theorem addBytes_toNat (a b : Byte) : (addBytes a b).toNat = (a.toNat + b.toNat) % 256 := by
  simp [addBytes]

@[simp] theorem subBytes_toNat (a b : Byte) : (subBytes a b).toNat = (a.toNat + 256 - b.toNat) % 256 := by
  simp [subBytes]

@[simp] theorem zext12_toNat (b : Byte) : (zext12 b).toNat = b.toNat := by
  simp only [zext12, BitVec.toNat_setWidth]
  omega

@[simp] theorem glyphAddr_toNat (v : Byte) : (glyphAddr v).toNat = 5 * v.toNat % 4096 := by simp [glyphAddr]

/-- A byte is a key number iff it is at most 15 (R130). -/
theorem keyOf_eq_none (b : Byte) : keyOf b = none ↔ 15 < b.toNat := by
  unfold keyOf
  split <;> simp <;> omega

theorem keyOf_eq_some (b : Byte) (k : Key) : keyOf b = some k ↔ b.toNat = k.val := by
  unfold keyOf
  split
  · simp [Fin.ext_iff]
  · simp; omega

/-! ### Runs of registers and bytes -/

@[simp] theorem regsUpTo_length (x : Reg) : (s.regsUpTo x).length = x.val + 1 := by
  simp only [State.regsUpTo, List.length_map]
  revert x; decide

/-- V0 to VX in register-index order (R139). -/
theorem regsUpTo_getElem (x k : Reg) (h : k ≤ x) :
    (s.regsUpTo x)[k.val]'
      (by have : k.val ≤ x.val := h; simp only [regsUpTo_length]; omega) = s.reg k := by
  have pos : ∀ x k : Reg, k ≤ x → ((List.finRange 16).filter (fun j => j ≤ x))[k.val]? = some k := by decide
  simp only [State.regsUpTo, List.getElem_map]
  exact congrArg s.reg (List.getElem_eq_iff _ |>.mpr (pos x k h))

@[simp] theorem spriteRows_length (n : Nat) : (s.spriteRows n).length = n := by simp [State.spriteRows]

/-- Row k is the byte at (I + k) mod 4096 (R127). -/
@[simp] theorem spriteRows_getElem (n k : Nat) (h : k < (s.spriteRows n).length) :
    (s.spriteRows n)[k] = s.readByte (s.atI k) := by simp [State.spriteRows]

/-- The address (I + k) mod 4096 as a number. -/
theorem atI_eq (k : Nat) : s.atI k = BitVec.ofNat 12 ((s.i.toNat + k) % 4096) := by
  apply BitVec.eq_of_toNat_eq
  simp [State.atI, BitVec.toNat_add]

/-- Registers after a fold of register writes over a list of registers without repeats. -/
theorem reg_foldl_setReg (f : Reg → Byte) (ks : List Reg) (t : State) (q : Reg) :
    (ks.foldl (fun u k => u.setReg k (f k)) t).reg q = if q ∈ ks then f q else t.reg q := by
  induction ks generalizing t with
  | nil => simp
  | cons k ks ih =>
    rw [List.foldl_cons, ih]
    by_cases hq : q ∈ ks <;> by_cases hk : q = k <;> simp [hq, hk]

/-- A fold of register writes changes registers only. -/
theorem foldl_setReg_eq (f : Reg → Byte) (ks : List Reg) (t : State) :
    ks.foldl (fun u k => u.setReg k (f k)) t = { t with v := (ks.foldl (fun u k => u.setReg k (f k)) t).v } := by
  induction ks generalizing t with
  | nil => rfl
  | cons k ks ih => rw [List.foldl_cons, ih]; rfl

/-- A fold of register writes passes the time base and the output history through. -/
theorem foldl_setReg_surroundings (n : Nat) (h : List Event) (f : Reg → Byte) (ks : List Reg) (t : State) :
    ks.foldl (fun u k => u.setReg k (f k)) { t with wakeups := n, history := h } =
      { ks.foldl (fun u k => u.setReg k (f k)) t with wakeups := n, history := h } := by
  induction ks generalizing t with
  | nil => rfl
  | cons k ks ih => exact ih (t.setReg k (f k))

/-- LD Vx, [I]: V0 to VX from memory, the others as before (R140). -/
@[simp] theorem reg_loadRegs (x q : Reg) :
    (s.loadRegs x).reg q = if q ≤ x then s.readByte (s.atI q.val) else s.reg q := by
  simp only [State.loadRegs, reg_foldl_setReg (fun k => s.readByte (s.atI k.val))]
  simp

/-- LD Vx, [I] changes registers only. -/
theorem loadRegs_eq (x : Reg) : s.loadRegs x = { s with v := (s.loadRegs x).v } :=
  foldl_setReg_eq (fun k => s.readByte (s.atI k.val)) _ _

@[simp] theorem loadRegs_mem (x : Reg) : (s.loadRegs x).mem = s.mem := by rw [loadRegs_eq]
@[simp] theorem loadRegs_pc (x : Reg) : (s.loadRegs x).pc = s.pc := by rw [loadRegs_eq]
@[simp] theorem loadRegs_i (x : Reg) : (s.loadRegs x).i = s.i := by rw [loadRegs_eq]
@[simp] theorem loadRegs_dt (x : Reg) : (s.loadRegs x).dt = s.dt := by rw [loadRegs_eq]
@[simp] theorem loadRegs_st (x : Reg) : (s.loadRegs x).st = s.st := by rw [loadRegs_eq]
@[simp] theorem loadRegs_stack (x : Reg) : (s.loadRegs x).stack = s.stack := by rw [loadRegs_eq]
@[simp] theorem loadRegs_sp (x : Reg) : (s.loadRegs x).sp = s.sp := by rw [loadRegs_eq]
@[simp] theorem loadRegs_latch (x : Reg) : (s.loadRegs x).latch = s.latch := by rw [loadRegs_eq]
@[simp] theorem loadRegs_run (x : Reg) : (s.loadRegs x).run = s.run := by rw [loadRegs_eq]
@[simp] theorem loadRegs_lastTick (x : Reg) : (s.loadRegs x).lastTick = s.lastTick := by rw [loadRegs_eq]
@[simp] theorem loadRegs_screen (x : Reg) : (s.loadRegs x).screen = s.screen := by rw [loadRegs_eq]
@[simp] theorem loadRegs_audio (x : Reg) : (s.loadRegs x).audio = s.audio := by rw [loadRegs_eq]
@[simp] theorem loadRegs_params (x : Reg) : (s.loadRegs x).params = s.params := by rw [loadRegs_eq]
@[simp] theorem loadRegs_wakeups (x : Reg) : (s.loadRegs x).wakeups = s.wakeups := by rw [loadRegs_eq]
@[simp] theorem loadRegs_inputs (x : Reg) : (s.loadRegs x).inputs = s.inputs := by rw [loadRegs_eq]
@[simp] theorem loadRegs_history (x : Reg) : (s.loadRegs x).history = s.history := by rw [loadRegs_eq]
@[simp] theorem loadRegs_readByte (x : Reg) (a : Addr) : (s.loadRegs x).readByte a = s.readByte a := by
  rw [loadRegs_eq]; rfl
@[simp] theorem loadRegs_stackEntry (x : Reg) (j : Nat) : (s.loadRegs x).stackEntry j = s.stackEntry j := by
  rw [loadRegs_eq]; rfl

/-- Memory after a run of at most 4096 stores at I: the bytes stored (R138, R139). -/
theorem readByte_storeAtI_inside (bs : List Byte) (hlen : bs.length ≤ 4096) (k : Nat) (hk : k < bs.length) :
    (s.storeAtI bs).readByte (s.atI k) = bs[k] := Memory.read_writeList_inside bs s.mem s.i hlen k hk

/-- Memory after a run of stores at I: every other byte as before. -/
theorem readByte_storeAtI_outside (bs : List Byte) (a : Addr) (h : ∀ k < bs.length, a ≠ s.atI k) :
    (s.storeAtI bs).readByte a = s.readByte a := Memory.read_writeList_outside bs s.mem s.i a h

/-- Every byte after a run of at most 4096 stores at I: the byte stored there or the one before. -/
theorem byteAfterStore_storeAtI (bs : List Byte) (hlen : bs.length ≤ 4096) (f : Nat → Nat)
    (hf : ∀ (k : Nat) (h : k < bs.length), bs[k].toNat = f k) (a : Addr) :
    ByteAfterStore s bs.length f a.toNat ((s.storeAtI bs).readByte a).toNat := by
  by_cases h : ∃ k < bs.length, (s.i.toNat + k) % 4096 = a.toNat
  · obtain ⟨k, hk, e⟩ := h
    have ha : a = s.atI k := by rw [atI_eq, e]; simp
    exact .inl ⟨k, hk, e, by rw [ha, readByte_storeAtI_inside s bs hlen k hk, hf]⟩
  · have h : ∀ k < bs.length, (s.i.toNat + k) % 4096 ≠ a.toNat := fun k hk e => h ⟨k, hk, e⟩
    refine .inr ⟨h, ?_⟩
    rw [readByte_storeAtI_outside s bs a (fun k hk e => h k hk (by rw [e, atI_eq]; simp))]
    simp

/-- The two bytes of the word fetched (R74). -/
theorem fetchWord_bytes :
    s.fetchWord.toNat / 256 = (s.readByte s.pc).toNat ∧ s.fetchWord.toNat % 256 = (s.readByte (s.pc + 1)).toNat := by
  have h : s.fetchWord.toNat = (s.readByte s.pc).toNat * 256 + (s.readByte (s.pc + 1)).toNat := append_toNat _ _
  have := (s.readByte (s.pc + 1)).isLt
  omega

/-! ### The call stack -/

/-- The entries after a push (R36). -/
theorem stackEntry_push (a : Addr) (j : Nat) (h : s.sp.val < 16) :
    (s.push a).stackEntry j = if j = s.sp.val then a else s.stackEntry j := by
  simp only [State.stackEntry, State.push, Vector.getElem?_setIfInBounds]
  by_cases hj : j = s.sp.val
  · simp [hj, h]
  · rw [if_neg (Ne.symm hj), if_neg hj]

/-- The depth after a push onto a stack that is not full. -/
theorem push_sp_val (a : Addr) (h : s.sp.val < 16) : (s.push a).sp.val = s.sp.val + 1 := by
  rw [push_sp, Fin.val_add_one_of_lt']
  omega

/-- The depth after a pop from a stack that is not empty. -/
theorem pop_sp_val (h : s.sp ≠ 0) : s.pop.sp.val = s.sp.val - 1 := by
  rw [pop_sp, Fin.val_sub_one_of_ne_zero h]

/-! ### Fatal errors -/

/-- What a fatal error changes: RUN and the output history, nothing else (R148, R149). -/
theorem fatalTaken (k : FatalKind) (w : Word) : FatalTaken k w s (s.takeFatal k w) :=
  ⟨rfl, rfl, fun p hp => by cases p <;> simp_all [Part.same]⟩

end Sys2Proof.Machine
end

