-- ==== Sys2Proof/Laws/Display.lean ====
section
/-! SUPPORT. The Display's pixel state: what a toggle does, and that every display operation keeps the canonical
form. -/

namespace Sys2Proof.Machine

theorem Pixel.before_iff (p q : Pixel) : p.before q = true ↔ p.y < q.y ∨ (p.y = q.y ∧ p.x < q.x) := by
  simp [Pixel.before]

theorem Pixel.ext_iff' (p q : Pixel) : p = q ↔ p.x = q.x ∧ p.y = q.y := by
  cases p; cases q; simp

theorem Pixel.before_trans {p q r : Pixel} (h₁ : p.before q = true) (h₂ : q.before r = true) :
    p.before r = true := by
  rw [Pixel.before_iff] at *
  omega

theorem Pixel.not_before_self (p : Pixel) : ¬ p.before p = true := by
  rw [Pixel.before_iff]
  omega

/-- Two different pixels are in one raster order or the other. -/
theorem Pixel.before_of_not {p q : Pixel} (hne : p ≠ q) (h : ¬ p.before q = true) : q.before p = true := by
  rw [Pixel.before_iff] at *
  rw [Ne, Pixel.ext_iff'] at hne
  omega

/-- Raster order: each lit pixel once. -/
abbrev Screen.Sorted (scr : Screen) : Prop := scr.Pairwise (fun p q => p.before q)

@[simp] theorem Screen.isOn_iff (scr : Screen) (p : Pixel) : scr.isOn p = true ↔ p ∈ scr := by
  simp [Screen.isOn]

/-- A toggle turns its pixel on if it was off, off if it was on, and leaves every other one (R168). -/
theorem Screen.mem_toggle (p q : Pixel) (scr : Screen) (h : scr.Sorted) :
    q ∈ scr.toggle p ↔ if q = p then p ∉ scr else q ∈ scr := by
  induction scr with
  | nil => simp [Screen.toggle]
  | cons r rs ih =>
    obtain ⟨hr, hrs⟩ := List.pairwise_cons.mp h
    simp only [Screen.toggle]
    split
    · rename_i hpr
      subst hpr
      have hp : p ∉ rs := fun hm => Pixel.not_before_self p (hr p hm)
      by_cases hq : q = p
      · subst hq; simp [hp]
      · simp [hq]
    · rename_i hpr
      split
      · rename_i hlt
        have hp : p ∉ rs := fun hm => Pixel.not_before_self p (Pixel.before_trans hlt (hr p hm))
        by_cases hq : q = p
        · subst hq; simp [hp, hpr]
        · simp [hq]
      · rw [List.mem_cons, ih hrs]
        by_cases hq : q = p
        · subst hq; simp [hpr]
        · simp [hq]

/-- A toggle keeps raster order. -/
theorem Screen.sorted_toggle (p : Pixel) (scr : Screen) (h : scr.Sorted) : (scr.toggle p).Sorted := by
  induction scr with
  | nil => simp [Screen.toggle, Screen.Sorted]
  | cons r rs ih =>
    obtain ⟨hr, hrs⟩ := List.pairwise_cons.mp h
    simp only [Screen.toggle]
    split
    · exact hrs
    · rename_i hpr
      split
      · rename_i hlt
        exact List.pairwise_cons.mpr ⟨fun q hq => by
          rcases List.mem_cons.mp hq with rfl | hq
          · exact hlt
          · exact Pixel.before_trans hlt (hr q hq), h⟩
      · rename_i hnlt
        refine List.pairwise_cons.mpr ⟨fun q hq => ?_, ih hrs⟩
        rw [Screen.mem_toggle p q rs hrs] at hq
        split at hq
        · rename_i hqp; subst hqp; exact Pixel.before_of_not hpr hnlt
        · exact hr q hq

/-- Two screens in raster order with the same lit pixels are the same. -/
theorem Screen.ext_of_sorted {a b : Screen} (ha : a.Sorted) (hb : b.Sorted) (h : ∀ p, p ∈ a ↔ p ∈ b) : a = b := by
  have nodup : ∀ {c : Screen}, c.Sorted → c.Nodup := fun {c} hc =>
    List.Pairwise.imp (fun {p q} (hpq : p.before q = true) (e : p = q) => Pixel.not_before_self q (e ▸ hpq)) hc
  exact ((List.perm_ext_iff_of_nodup (nodup ha) (nodup hb)).mpr h).eq_of_pairwise
    (fun p q _ _ hpq hqp => absurd (Pixel.before_trans hpq hqp) (Pixel.not_before_self p)) ha hb

/-! ### The canonical form of the pixel state -/

theorem Screen.wf_framebuffer (w h : Nat) (e : Edge) (scr : Screen) :
    Screen.wf (.framebuffer w h e) scr = true ↔ scr.Sorted ∧ ∀ p ∈ scr, p.x < w ∧ p.y < h := by
  simp [Screen.wf, Screen.Sorted]

theorem Screen.wf_oracle (scr : Screen) : Screen.wf .oracle scr = true ↔ scr = [] := by simp [Screen.wf]

theorem Screen.wf_blank (d : DisplayModel) : Screen.wf d [] = true := by cases d <;> simp [Screen.wf]

/-- Every pixel a sprite covers is inside a display that has a pixel at all (R171). -/
theorem pixelAt_inside {w h : Nat} (hw : 1 ≤ w) (hh : 1 ≤ h) {e : Edge} {x y : Byte} {rc : Nat × Nat} {p : Pixel}
    (hp : pixelAt w h e x y rc = some p) : p.x < w ∧ p.y < h := by
  cases e with
  | wrap =>
    simp only [pixelAt, Option.some.injEq] at hp
    subst hp
    exact ⟨Nat.mod_lt _ hw, Nat.mod_lt _ hh⟩
  | clip =>
    simp only [pixelAt] at hp
    split at hp
    · cases hp; assumption
    · cases hp

theorem spritePixels_inside {w h : Nat} (hw : 1 ≤ w) (hh : 1 ≤ h) {e : Edge} {x y : Byte} {rows : List Byte}
    {p : Pixel} (hp : p ∈ spritePixels w h e x y rows) : p.x < w ∧ p.y < h := by
  obtain ⟨rc, -, hrc⟩ := List.mem_filterMap.mp hp
  exact pixelAt_inside hw hh hrc

theorem foldl_drawPixel_sorted (ps : List Pixel) (acc : Bool × Screen) (h : acc.2.Sorted) :
    (ps.foldl drawPixel acc).2.Sorted := by
  induction ps generalizing acc with
  | nil => exact h
  | cons p ps ih => exact ih _ (Screen.sorted_toggle p acc.2 h)

theorem foldl_drawPixel_inside (ps : List Pixel) (acc : Bool × Screen) (P : Pixel → Prop) (hs : acc.2.Sorted)
    (hps : ∀ p ∈ ps, P p) (h : ∀ p ∈ acc.2, P p) : ∀ p ∈ (ps.foldl drawPixel acc).2, P p := by
  induction ps generalizing acc with
  | nil => exact h
  | cons p ps ih =>
    refine ih (drawPixel acc p) (Screen.sorted_toggle p acc.2 hs) (fun q hq => hps q (by simp [hq])) (fun q hq => ?_)
    rw [show (drawPixel acc p).2 = acc.2.toggle p from rfl, Screen.mem_toggle p q acc.2 hs] at hq
    split at hq
    · rename_i hqp; subst hqp; exact hps q (by simp)
    · exact h q hq

/-- A draw keeps the canonical form of the framebuffer. -/
theorem drawSprite_wf {w h : Nat} (hw : 1 ≤ w) (hh : 1 ≤ h) (e : Edge) (x y : Byte) (rows : List Byte) (scr : Screen)
    (hs : Screen.wf (.framebuffer w h e) scr = true) :
    Screen.wf (.framebuffer w h e) (drawSprite w h e x y rows scr).2 = true := by
  rw [Screen.wf_framebuffer] at *
  exact ⟨foldl_drawPixel_sorted _ _ hs.1,
    foldl_drawPixel_inside _ _ _ hs.1 (fun p hp => spritePixels_inside hw hh hp) hs.2⟩

end Sys2Proof.Machine
end

