-- ==== Sys2Proof/Laws/Exec.lean ====
section
/-! SUPPORT. The meanings that branch, case by case, and the fold-free form of the others: what `exec` answers, so
that a proof rewrites with the case at hand. -/

namespace Sys2Proof.Machine

variable (s : State)

theorem exec_ret_of_empty (h : s.sp = 0) : exec .ret s = .next (s.takeFatal .stackUnderflow (encode .ret)) := if_pos h

theorem exec_ret_of_nonempty (h : s.sp ≠ 0) : exec .ret s = .next (s.pop.goto s.topEntry) := if_neg h

theorem exec_call_of_full (nnn : Addr) (h : s.sp.val = 16) :
    exec (.call nnn) s = .next (s.takeFatal .stackOverflow (encode (.call nnn))) := if_pos h

theorem exec_call_of_room (nnn : Addr) (h : s.sp.val < 16) :
    exec (.call nnn) s = .next ((s.push (s.pc + 2)).goto nnn) := if_neg (Nat.ne_of_lt h)

theorem exec_skp_of_key (x : Reg) (k : Key) (h : (s.reg x).toNat = k.val) :
    exec (.skp x) s = .next ((s.isKeyPressed k).2.skipIf (s.isKeyPressed k).1) := by
  show execSkp x s = _
  rw [execSkp, (keyOf_eq_some _ _).mpr h]

theorem exec_skp_of_large (x : Reg) (h : 15 < (s.reg x).toNat) :
    exec (.skp x) s = .next (s.takeFatal .keyOutOfRange (encode (.skp x))) := by
  show execSkp x s = _
  rw [execSkp, (keyOf_eq_none _).mpr h]
  rfl

theorem exec_sknp_of_key (x : Reg) (k : Key) (h : (s.reg x).toNat = k.val) :
    exec (.sknp x) s = .next ((s.isKeyPressed k).2.skipIf (!(s.isKeyPressed k).1)) := by
  show execSknp x s = _
  rw [execSknp, (keyOf_eq_some _ _).mpr h]

theorem exec_sknp_of_large (x : Reg) (h : 15 < (s.reg x).toNat) :
    exec (.sknp x) s = .next (s.takeFatal .keyOutOfRange (encode (.sknp x))) := by
  show execSknp x s = _
  rw [execSknp, (keyOf_eq_none _).mpr h]
  rfl

/-- The key-wait, each of its four cases (R132). -/
theorem exec_ldVK_idle (x : Reg) (h : s.latch = none) (o : s.inputs.keySample.pressed = none) :
    exec (.ldVK x) s = .next s.getPressedKey.2 := by
  show execLdVK x s = _
  simp [execLdVK, h, o, State.hold]

theorem exec_ldVK_press (x : Reg) (k : Key) (h : s.latch = none) (o : s.inputs.keySample.pressed = some k) :
    exec (.ldVK x) s = .next (s.getPressedKey.2.setLatch (some k)) := by
  show execLdVK x s = _
  simp [execLdVK, h, o, State.hold]

theorem exec_ldVK_release (x : Reg) (k : Key) (h : s.latch = some k) (o : s.inputs.keySample.pressed = none) :
    exec (.ldVK x) s =
      .next ((s.getPressedKey.2.setReg x (BitVec.ofNat 8 k.val)).setLatch none).fall := by
  show execLdVK x s = _
  simp [execLdVK, h, o]

theorem exec_ldVK_down (x : Reg) (k o : Key) (h : s.latch = some k) (ho : s.inputs.keySample.pressed = some o) :
    exec (.ldVK x) s = .next s.getPressedKey.2 := by
  show execLdVK x s = _
  simp [execLdVK, h, ho, State.hold]

/-! ### The other way round: all that a branching meaning can have done -/

variable {s}

theorem exec_ret_cases {t : State} (h : exec .ret s = .next t) :
    (s.sp = 0 ∧ t = s.takeFatal .stackUnderflow (encode .ret)) ∨ (s.sp ≠ 0 ∧ t = s.pop.goto s.topEntry) := by
  by_cases h0 : s.sp = 0
  · rw [exec_ret_of_empty s h0] at h; cases h; exact .inl ⟨h0, rfl⟩
  · rw [exec_ret_of_nonempty s h0] at h; cases h; exact .inr ⟨h0, rfl⟩

theorem exec_call_cases {nnn : Addr} {t : State} (h : exec (.call nnn) s = .next t) :
    (s.sp.val = 16 ∧ t = s.takeFatal .stackOverflow (encode (.call nnn))) ∨
    (s.sp.val < 16 ∧ t = (s.push (s.pc + 2)).goto nnn) := by
  by_cases h0 : s.sp.val = 16
  · rw [exec_call_of_full s nnn h0] at h; cases h; exact .inl ⟨h0, rfl⟩
  · rw [exec_call_of_room s nnn (by omega)] at h; cases h; exact .inr ⟨by omega, rfl⟩

/-- A byte is above 15 or a key number (R130). -/
theorem large_or_key (b : Byte) : 15 < b.toNat ∨ ∃ k : Key, b.toNat = k.val := by
  by_cases h : 15 < b.toNat
  · exact .inl h
  · exact .inr ⟨⟨b.toNat, by omega⟩, rfl⟩

theorem exec_skp_cases {x : Reg} {t : State} (h : exec (.skp x) s = .next t) :
    (15 < (s.reg x).toNat ∧ t = s.takeFatal .keyOutOfRange (encode (.skp x))) ∨
    ∃ k : Key, (s.reg x).toNat = k.val ∧ t = (s.isKeyPressed k).2.skipIf (s.isKeyPressed k).1 := by
  obtain h0 | ⟨k, h0⟩ := large_or_key (s.reg x)
  · rw [exec_skp_of_large s x h0] at h; cases h; exact .inl ⟨h0, rfl⟩
  · rw [exec_skp_of_key s x k h0] at h; cases h; exact .inr ⟨k, h0, rfl⟩

theorem exec_sknp_cases {x : Reg} {t : State} (h : exec (.sknp x) s = .next t) :
    (15 < (s.reg x).toNat ∧ t = s.takeFatal .keyOutOfRange (encode (.sknp x))) ∨
    ∃ k : Key, (s.reg x).toNat = k.val ∧ t = (s.isKeyPressed k).2.skipIf (!(s.isKeyPressed k).1) := by
  obtain h0 | ⟨k, h0⟩ := large_or_key (s.reg x)
  · rw [exec_sknp_of_large s x h0] at h; cases h; exact .inl ⟨h0, rfl⟩
  · rw [exec_sknp_of_key s x k h0] at h; cases h; exact .inr ⟨k, h0, rfl⟩

theorem exec_ldVK_cases {x : Reg} {t : State} (h : exec (.ldVK x) s = .next t) :
    (s.latch = none ∧ s.inputs.keySample.pressed = none ∧ t = s.getPressedKey.2) ∨
    (∃ k, s.latch = none ∧ s.inputs.keySample.pressed = some k ∧ t = s.getPressedKey.2.setLatch (some k)) ∨
    (∃ k : Key, s.latch = some k ∧ s.inputs.keySample.pressed = none ∧
      t = ((s.getPressedKey.2.setReg x (BitVec.ofNat 8 k.val)).setLatch none).fall) ∨
    (∃ k o, s.latch = some k ∧ s.inputs.keySample.pressed = some o ∧ t = s.getPressedKey.2) := by
  rcases hl : s.latch with _ | k <;> rcases ho : s.inputs.keySample.pressed with _ | o
  · rw [exec_ldVK_idle s x hl ho] at h; cases h; simp
  · rw [exec_ldVK_press s x o hl ho] at h; cases h; simp
  · rw [exec_ldVK_release s x k hl ho] at h; cases h; simp
  · rw [exec_ldVK_down s x k o hl ho] at h; cases h; simp

/-! ### What no instruction reads -/

/-- No instruction reads the time base or the output history: they do not bear on what it leaves in the CORE, in the
devices, or of the port's answers (R165, R21; notes/assumptions/26). -/
theorem exec_ignores_history_and_time {i : Instr} {s t : State} (n : Nat) (h : List Event) (he : exec i s = .next t) :
    ∃ t', exec i { s with wakeups := n, history := h } = .next t' ∧ t'.toCoreState = t.toCoreState ∧
      t'.toDeviceState = t.toDeviceState ∧ t'.params = t.params ∧ t'.inputs = t.inputs := by
  cases i
  case ret =>
    obtain ⟨h0, rfl⟩ | ⟨h0, rfl⟩ := exec_ret_cases he
    · exact ⟨_, exec_ret_of_empty _ h0, rfl, rfl, rfl, rfl⟩
    · exact ⟨_, exec_ret_of_nonempty _ h0, rfl, rfl, rfl, rfl⟩
  case call =>
    obtain ⟨h0, rfl⟩ | ⟨h0, rfl⟩ := exec_call_cases he
    · exact ⟨_, exec_call_of_full _ _ h0, rfl, rfl, rfl, rfl⟩
    · exact ⟨_, exec_call_of_room _ _ h0, rfl, rfl, rfl, rfl⟩
  case skp x =>
    obtain ⟨h0, rfl⟩ | ⟨k, h0, rfl⟩ := exec_skp_cases he
    · exact ⟨_, exec_skp_of_large _ x h0, rfl, rfl, rfl, rfl⟩
    · exact ⟨_, exec_skp_of_key _ x k h0, rfl, rfl, rfl, rfl⟩
  case sknp x =>
    obtain ⟨h0, rfl⟩ | ⟨k, h0, rfl⟩ := exec_sknp_cases he
    · exact ⟨_, exec_sknp_of_large _ x h0, rfl, rfl, rfl, rfl⟩
    · exact ⟨_, exec_sknp_of_key _ x k h0, rfl, rfl, rfl, rfl⟩
  case ldVK x =>
    obtain ⟨h0, h1, rfl⟩ | ⟨k, h0, h1, rfl⟩ | ⟨k, h0, h1, rfl⟩ | ⟨k, o, h0, h1, rfl⟩ := exec_ldVK_cases he
    · exact ⟨_, exec_ldVK_idle { s with wakeups := n, history := h } x h0 h1, rfl, rfl, rfl, rfl⟩
    · exact ⟨_, exec_ldVK_press { s with wakeups := n, history := h } x k h0 h1, rfl, rfl, rfl, rfl⟩
    · exact ⟨_, exec_ldVK_release { s with wakeups := n, history := h } x k h0 h1, rfl, rfl, rfl, rfl⟩
    · exact ⟨_, exec_ldVK_down { s with wakeups := n, history := h } x k o h0 h1, rfl, rfl, rfl, rfl⟩
  case ldVM x =>
    injection he with he; subst he
    have hf := foldl_setReg_surroundings n h (fun k => s.readByte (s.atI k.val))
      ((List.finRange 16).filter (fun k => k ≤ x)) s
    exact ⟨_, congrArg (fun u : State => Host.Outcome.next u.fall) hf, rfl, rfl, rfl, rfl⟩
  all_goals (injection he with he; subst he; exact ⟨_, rfl, rfl, rfl, rfl, rfl⟩)

end Sys2Proof.Machine
end

