-- ==== Sys2Proof/Laws/PerInstr.lean ====
section
/-! SUPPORT. Family RowBits: the word of an instruction belongs to its row of the opcode map (R93), for every value of
its operands. One lemma per constructor. -/

namespace Sys2Proof.Laws.RowBits

/-- Some row of the opcode map has the instruction's mnemonic and covers its word. -/
def Statement (i : Instr) : Prop :=
  ∃ r ∈ opcodeTable, r.mnemonic = i.mnemonic ∧ encode i &&& r.mask = r.pattern

theorem cls : Statement (.cls) :=
  ⟨⟨"CLS", 0x00E0, 0xFFFF⟩, by decide, rfl, by decide⟩

theorem ret : Statement (.ret) :=
  ⟨⟨"RET", 0x00EE, 0xFFFF⟩, by decide, rfl, by decide⟩

theorem jp (nnn : Addr) : Statement (.jp nnn) :=
  ⟨⟨"JP", 0x1000, 0xF000⟩, by decide, rfl, (encodeAddr_family _ _).trans (by decide)⟩

theorem call (nnn : Addr) : Statement (.call nnn) :=
  ⟨⟨"CALL", 0x2000, 0xF000⟩, by decide, rfl, (encodeAddr_family _ _).trans (by decide)⟩

theorem seVB (x : Reg) (kk : Byte) : Statement (.seVB x kk) :=
  ⟨⟨"SE_VB", 0x3000, 0xF000⟩, by decide, rfl, (encodeRegByte_family _ _ _).trans (by decide)⟩

theorem sneVB (x : Reg) (kk : Byte) : Statement (.sneVB x kk) :=
  ⟨⟨"SNE_VB", 0x4000, 0xF000⟩, by decide, rfl, (encodeRegByte_family _ _ _).trans (by decide)⟩

theorem seVV (x y : Reg) : Statement (.seVV x y) :=
  ⟨⟨"SE_VV", 0x5000, 0xF000⟩, by decide, rfl, (encodeRegReg_family _ _ _ _).trans (by decide)⟩

theorem sneVV (x y : Reg) : Statement (.sneVV x y) :=
  ⟨⟨"SNE_VV", 0x9000, 0xF000⟩, by decide, rfl, (encodeRegReg_family _ _ _ _).trans (by decide)⟩

theorem ldVB (x : Reg) (kk : Byte) : Statement (.ldVB x kk) :=
  ⟨⟨"LD_VB", 0x6000, 0xF000⟩, by decide, rfl, (encodeRegByte_family _ _ _).trans (by decide)⟩

theorem addVB (x : Reg) (kk : Byte) : Statement (.addVB x kk) :=
  ⟨⟨"ADD_VB", 0x7000, 0xF000⟩, by decide, rfl, (encodeRegByte_family _ _ _).trans (by decide)⟩

theorem ldVV (x y : Reg) : Statement (.ldVV x y) :=
  ⟨⟨"LD_VV", 0x8000, 0xF00F⟩, by decide, rfl, (encodeRegReg_lowNibble _ _ _ _).trans (by decide)⟩

theorem or (x y : Reg) : Statement (.or x y) :=
  ⟨⟨"OR", 0x8001, 0xF00F⟩, by decide, rfl, (encodeRegReg_lowNibble _ _ _ _).trans (by decide)⟩

theorem and (x y : Reg) : Statement (.and x y) :=
  ⟨⟨"AND", 0x8002, 0xF00F⟩, by decide, rfl, (encodeRegReg_lowNibble _ _ _ _).trans (by decide)⟩

theorem xor (x y : Reg) : Statement (.xor x y) :=
  ⟨⟨"XOR", 0x8003, 0xF00F⟩, by decide, rfl, (encodeRegReg_lowNibble _ _ _ _).trans (by decide)⟩

theorem addVV (x y : Reg) : Statement (.addVV x y) :=
  ⟨⟨"ADD_VV", 0x8004, 0xF00F⟩, by decide, rfl, (encodeRegReg_lowNibble _ _ _ _).trans (by decide)⟩

theorem sub (x y : Reg) : Statement (.sub x y) :=
  ⟨⟨"SUB", 0x8005, 0xF00F⟩, by decide, rfl, (encodeRegReg_lowNibble _ _ _ _).trans (by decide)⟩

theorem shr (x : Reg) : Statement (.shr x) :=
  ⟨⟨"SHR", 0x8006, 0xF00F⟩, by decide, rfl, (encodeRegReg_lowNibble _ _ _ _).trans (by decide)⟩

theorem subn (x y : Reg) : Statement (.subn x y) :=
  ⟨⟨"SUBN", 0x8007, 0xF00F⟩, by decide, rfl, (encodeRegReg_lowNibble _ _ _ _).trans (by decide)⟩

theorem shl (x : Reg) : Statement (.shl x) :=
  ⟨⟨"SHL", 0x800E, 0xF00F⟩, by decide, rfl, (encodeRegReg_lowNibble _ _ _ _).trans (by decide)⟩

theorem ldIA (nnn : Addr) : Statement (.ldIA nnn) :=
  ⟨⟨"LD_IA", 0xA000, 0xF000⟩, by decide, rfl, (encodeAddr_family _ _).trans (by decide)⟩

theorem jpV0 (nnn : Addr) : Statement (.jpV0 nnn) :=
  ⟨⟨"JP_V0", 0xB000, 0xF000⟩, by decide, rfl, (encodeAddr_family _ _).trans (by decide)⟩

theorem rnd (x : Reg) (kk : Byte) : Statement (.rnd x kk) :=
  ⟨⟨"RND", 0xC000, 0xF000⟩, by decide, rfl, (encodeRegByte_family _ _ _).trans (by decide)⟩

theorem drw (x y : Reg) (n : Fin 16) : Statement (.drw x y n) :=
  ⟨⟨"DRW", 0xD000, 0xF000⟩, by decide, rfl, (encodeRegReg_family _ _ _ _).trans (by decide)⟩

theorem skp (x : Reg) : Statement (.skp x) :=
  ⟨⟨"SKP", 0xE09E, 0xF0FF⟩, by decide, rfl, (encodeRegByte_lowByte _ _ _).trans (by decide)⟩

theorem sknp (x : Reg) : Statement (.sknp x) :=
  ⟨⟨"SKNP", 0xE0A1, 0xF0FF⟩, by decide, rfl, (encodeRegByte_lowByte _ _ _).trans (by decide)⟩

theorem ldVDT (x : Reg) : Statement (.ldVDT x) :=
  ⟨⟨"LD_VDT", 0xF007, 0xF0FF⟩, by decide, rfl, (encodeRegByte_lowByte _ _ _).trans (by decide)⟩

theorem ldVK (x : Reg) : Statement (.ldVK x) :=
  ⟨⟨"LD_VK", 0xF00A, 0xF0FF⟩, by decide, rfl, (encodeRegByte_lowByte _ _ _).trans (by decide)⟩

theorem ldDTV (x : Reg) : Statement (.ldDTV x) :=
  ⟨⟨"LD_DTV", 0xF015, 0xF0FF⟩, by decide, rfl, (encodeRegByte_lowByte _ _ _).trans (by decide)⟩

theorem ldSTV (x : Reg) : Statement (.ldSTV x) :=
  ⟨⟨"LD_STV", 0xF018, 0xF0FF⟩, by decide, rfl, (encodeRegByte_lowByte _ _ _).trans (by decide)⟩

theorem addIV (x : Reg) : Statement (.addIV x) :=
  ⟨⟨"ADD_IV", 0xF01E, 0xF0FF⟩, by decide, rfl, (encodeRegByte_lowByte _ _ _).trans (by decide)⟩

theorem ldFV (x : Reg) : Statement (.ldFV x) :=
  ⟨⟨"LD_FV", 0xF029, 0xF0FF⟩, by decide, rfl, (encodeRegByte_lowByte _ _ _).trans (by decide)⟩

theorem ldBV (x : Reg) : Statement (.ldBV x) :=
  ⟨⟨"LD_BV", 0xF033, 0xF0FF⟩, by decide, rfl, (encodeRegByte_lowByte _ _ _).trans (by decide)⟩

theorem ldMV (x : Reg) : Statement (.ldMV x) :=
  ⟨⟨"LD_MV", 0xF055, 0xF0FF⟩, by decide, rfl, (encodeRegByte_lowByte _ _ _).trans (by decide)⟩

theorem ldVM (x : Reg) : Statement (.ldVM x) :=
  ⟨⟨"LD_VM", 0xF065, 0xF0FF⟩, by decide, rfl, (encodeRegByte_lowByte _ _ _).trans (by decide)⟩

end Sys2Proof.Laws.RowBits
end

