-- ==== Sys2Proof/Laws/Step.lean ====
section
/-! SUPPORT. What the tick, the part of a wakeup before its instruction, and a step can do, said once. -/

namespace Sys2Proof.Machine

variable (s : State)

/-- A timer's decrement as a number, saturating at 0 (R156). -/
@[simp] theorem decrementTimer_toNat (t : Byte) : (decrementTimer t).toNat = t.toNat - 1 := by
  unfold decrementTimer
  split
  · rename_i h; subst h; rfl
  · rename_i h
    have : t.toNat ≠ 0 := fun e => h (BitVec.eq_of_toNat_eq e)
    have := t.isLt
    rw [BitVec.toNat_sub]
    simp
    omega

/-- The audio gate: the device follows ST > 0, one command either way (R157). -/
theorem gateAudio_eq : s.gateAudio =
    { s with
      audio := if s.st = 0 then .paused else .playing
      history := (if s.st = 0 then .pause else .play) :: s.history } := by
  unfold State.gateAudio
  split <;> rfl

/-- The whole effect of a tick (R159): both timers, the audio device, and two events. -/
theorem tick_eq : s.tick =
    { s with
      dt := decrementTimer s.dt
      st := decrementTimer s.st
      audio := if decrementTimer s.st = 0 then .paused else .playing
      history := .render :: (if decrementTimer s.st = 0 then .pause else .play) :: s.history } := by
  rw [State.tick, gateAudio_eq]
  rfl

/-- What stands after the tick decision: the state after a tick or the state before, with the controller's own fields
advanced (R160). -/
theorem beginWakeup_fields :
    s.beginWakeup.mem = s.mem ∧ s.beginWakeup.v = s.v ∧ s.beginWakeup.pc = s.pc ∧ s.beginWakeup.i = s.i ∧
    s.beginWakeup.stack = s.stack ∧ s.beginWakeup.sp = s.sp ∧ s.beginWakeup.latch = s.latch ∧
    s.beginWakeup.run = s.run ∧ s.beginWakeup.screen = s.screen ∧ s.beginWakeup.params = s.params ∧
    s.beginWakeup.wakeups = s.wakeups + 1 := by
  cases h : s.tickDue <;> simp [State.beginWakeup, State.tickIf, h, tick_eq]

/-! The same, field by field. -/

@[simp] theorem beginWakeup_mem : s.beginWakeup.mem = s.mem := (beginWakeup_fields s).1
@[simp] theorem beginWakeup_v : s.beginWakeup.v = s.v := (beginWakeup_fields s).2.1
@[simp] theorem beginWakeup_pc : s.beginWakeup.pc = s.pc := (beginWakeup_fields s).2.2.1
@[simp] theorem beginWakeup_i : s.beginWakeup.i = s.i := (beginWakeup_fields s).2.2.2.1
@[simp] theorem beginWakeup_stack : s.beginWakeup.stack = s.stack := (beginWakeup_fields s).2.2.2.2.1
@[simp] theorem beginWakeup_sp : s.beginWakeup.sp = s.sp := (beginWakeup_fields s).2.2.2.2.2.1
@[simp] theorem beginWakeup_latch : s.beginWakeup.latch = s.latch := (beginWakeup_fields s).2.2.2.2.2.2.1
@[simp] theorem beginWakeup_run : s.beginWakeup.run = s.run := (beginWakeup_fields s).2.2.2.2.2.2.2.1
@[simp] theorem beginWakeup_screen : s.beginWakeup.screen = s.screen := (beginWakeup_fields s).2.2.2.2.2.2.2.2.1
@[simp] theorem beginWakeup_params : s.beginWakeup.params = s.params := (beginWakeup_fields s).2.2.2.2.2.2.2.2.2.1
@[simp] theorem beginWakeup_wakeups : s.beginWakeup.wakeups = s.wakeups + 1 := (beginWakeup_fields s).2.2.2.2.2.2.2.2.2.2
@[simp] theorem beginWakeup_reg (r : Reg) : s.beginWakeup.reg r = s.reg r := by
  rw [State.reg, beginWakeup_v, State.reg]
@[simp] theorem beginWakeup_readByte (a : Addr) : s.beginWakeup.readByte a = s.readByte a := by
  rw [State.readByte, beginWakeup_mem, State.readByte]
@[simp] theorem beginWakeup_stackEntry (j : Nat) : s.beginWakeup.stackEntry j = s.stackEntry j := by
  rw [State.stackEntry, beginWakeup_stack, State.stackEntry]
@[simp] theorem beginWakeup_lastTick : s.beginWakeup.lastTick = s.lastTickAfter s.tickDue := rfl
@[simp] theorem beginWakeup_dt : s.beginWakeup.dt = if s.tickDue then decrementTimer s.dt else s.dt := by
  cases h : s.tickDue <;> simp [State.beginWakeup, State.tickIf, h, tick_eq]
@[simp] theorem beginWakeup_st : s.beginWakeup.st = if s.tickDue then decrementTimer s.st else s.st := by
  cases h : s.tickDue <;> simp [State.beginWakeup, State.tickIf, h, tick_eq]

/-- The tick touches neither memory nor PC, so the word fetched is the one that stood there before (R152). -/
theorem beginWakeup_fetchWord : s.beginWakeup.fetchWord = s.fetchWord := by
  obtain ⟨hm, -, hp, -⟩ := beginWakeup_fields s
  rw [State.fetchWord, hm, hp, State.fetchWord]

/-- Ideal timing: the comparison of R161 without the denominators. -/
theorem tickDue_ideal (h : s.params.timing = .ideal) :
    s.tickDue = true ↔ (s.lastTick + 1) * s.params.fHz ≤ 60 * s.wakeups := by
  unfold State.tickDue
  rw [h]
  exact decide_eq_true_iff

/-- A step from a state that is ready is one instruction cycle after the start of the wakeup (R160). -/
theorem step_of_ready (h : s.Ready) : step s = cycle s.beginWakeup := by
  obtain ⟨hp, hr, hc⟩ := h
  simp [step, wakeup, hp, hr, hc]

/-- Everything a step that answers a next state can have done: nothing (halted), a cancellation, a fatal error for an
undefined word, or one instruction after the start of the wakeup (R160, R89). -/
theorem step_cases {s t : State} (h : step s = .next t) : wellFormedParams s.params = true ∧
    ((∃ why, s.run = .halted why ∧ t = s) ∨
     (s.run = .running ∧ s.cancelDue = true ∧ t = s.cancel) ∨
     (s.run = .running ∧ s.cancelDue = false ∧ decode s.fetchWord = none ∧
        t = s.beginWakeup.takeFatal .undefinedInstruction s.fetchWord) ∨
     (s.run = .running ∧ s.cancelDue = false ∧ ∃ i, decode s.fetchWord = some i ∧ exec i s.beginWakeup = .next t)) := by
  unfold step wakeup at h
  split at h
  · cases h
  · rename_i hp
    refine ⟨by simpa using hp, ?_⟩
    split at h
    · rename_i why hr; cases h; exact .inl ⟨why, hr, rfl⟩
    · rename_i hr
      split at h
      · rename_i hc; cases h; exact .inr (.inl ⟨hr, hc, rfl⟩)
      · rename_i hc
        have hc : s.cancelDue = false := by simpa using hc
        unfold cycle at h
        rw [beginWakeup_fetchWord] at h
        split at h
        · rename_i hd; cases h; exact .inr (.inr (.inl ⟨hr, hc, hd, rfl⟩))
        · rename_i i hd; exact .inr (.inr (.inr ⟨hr, hc, i, hd, h⟩))

end Sys2Proof.Machine
end

