-- ==== Sys2Proof/Tests/Slice0.lean ====
section
/-! SUPPORT. Tests, each one step or one operation on a small state. Expected values are those of the vectors V, M, T, E
of spec/95_test_vectors.md or are worked out from the rule named; then a witness for the hypotheses of every obligation
that has some. -/

namespace Sys2Proof.Tests
open Sys2Proof.Machine

/-! ### Small states -/

/-- Reset with a word placed at an address, and PC there. -/
def at' (pc : Addr) (word : Nat) : State := { State.reset with pc := pc }.withFetchWord 16 word

/-- With registers set. -/
def regs (l : List (Reg × Byte)) (s : State) : State := l.foldl (fun t p => t.setReg p.1 p.2) s

/-- With bytes of memory stored from an address on. -/
def bytes (a : Addr) (l : List Byte) (s : State) : State := { s with mem := s.mem.writeList a l }

/-- With a stack of n entries, each 0x202. -/
def depth (n : Fin 17) (s : State) : State := { s with sp := n, stack := Vector.replicate 16 0x202 }

/-- With the Input's next answers scripted. -/
def keys (l : List KeySample) (s : State) : State := { s with inputs := { s.inputs with keys := l } }

/-- With the random bytes scripted. -/
def rand (l : List Byte) (s : State) : State := { s with inputs := { s.inputs with rand := l } }

/-- With pixels on. -/
def pixels (l : Screen) (s : State) : State := { s with screen := l }

/-- A state in which a tick is due: wakeup 9 at F_HZ = 500 (T6), both timers at 5. -/
def ticking (s : State) : State := { s with wakeups := 9, dt := 5, st := 5 }

/-- Whether a step answers a next state that passes the check. -/
def stepIs (s : State) (check : State → Bool) : Bool :=
  match step s with
  | .next t => check t
  | _ => false

/-- No key down, key 8 down, key 3 down. -/
def noKey : KeySample := ⟨0, 0⟩
def key8 : KeySample := ⟨0x0100, 0⟩
def key3 : KeySample := ⟨0x0008, 0⟩
def key4 : KeySample := ⟨0x0010, 0⟩

/-! ### WellFormed refuses each kind of ill-formed term (R86, R66, R6, D25) -/

theorem test_wf_word_family0 : wellFormedWord 0x0000 = false ∧ wellFormedWord 0x01E0 = false := by decide
theorem test_wf_word_family8 : wellFormedWord 0x8018 = false ∧ wellFormedWord 0x801D = false := by decide
theorem test_wf_word_familyE : wellFormedWord 0xE59F = false := by decide
theorem test_wf_word_familyF : wellFormedWord 0xF000 = false ∧ wellFormedWord 0xF0FF = false := by decide
theorem test_wf_word_accepts : wellFormedWord 0x00E0 = true ∧ wellFormedWord 0x800E = true ∧
    wellFormedWord 0xEFA1 = true ∧ wellFormedWord 0xF165 = true := by decide
/-- E4 -/
theorem test_wf_program (l : List Byte) : (l.length = 3584 → wellFormedProgram l = true) ∧
    (l.length = 3585 → wellFormedProgram l = false) := by
  constructor <;> intro h <;> simp only [wellFormedProgram, h] <;> decide
theorem test_wf_params : wellFormedParams Config.reference = true ∧
    wellFormedParams { Config.reference with fHz := 0 } = false ∧
    wellFormedParams { Config.reference with display := .framebuffer 0 32 .wrap } = false ∧
    wellFormedParams { Config.reference with display := .framebuffer 64 0 .clip } = false := by decide
/-- F_HZ = 0 is refused (D25, U8). -/
theorem test_step_refuses_fHz_zero :
    step { State.reset with params := { Config.reference with fHz := 0 } } = .refused .configuration := rfl

/-! ### Decoding: words written out bit by bit from the formats of R77 and the opcode map of R93 -/

theorem test_decode_cls_ret : decode 0b0000000011100000 = some .cls ∧ decode 0b0000000011101110 = some .ret := by decide
theorem test_decode_jp_call : decode 0b0001001000000100 = some (.jp 0x204) ∧
    decode 0b0010111111111111 = some (.call 0xFFF) := by decide
theorem test_decode_skips : decode 0b0011101001111111 = some (.seVB 0xA 0x7F) ∧
    decode 0b0100000110000000 = some (.sneVB 1 0x80) ∧ decode 0b0101000100101111 = some (.seVV 1 2) ∧
    decode 0b1001111001010001 = some (.sneVV 0xE 5) := by decide
theorem test_decode_load_add : decode 0b0110101000000101 = some (.ldVB 0xA 5) ∧
    decode 0b0111101000000011 = some (.addVB 0xA 3) := by decide
theorem test_decode_alu_bitwise : decode 0b1000001000110000 = some (.ldVV 2 3) ∧
    decode 0b1000001000110001 = some (.or 2 3) ∧ decode 0b1000001000110010 = some (.and 2 3) ∧
    decode 0b1000001000110011 = some (.xor 2 3) := by decide
theorem test_decode_alu_arith : decode 0b1000001000110100 = some (.addVV 2 3) ∧
    decode 0b1000001000110101 = some (.sub 2 3) ∧ decode 0b1000000110100110 = some (.shr 1) ∧
    decode 0b1000001000110111 = some (.subn 2 3) ∧ decode 0b1000010000001110 = some (.shl 4) := by decide
theorem test_decode_index_jump_random : decode 0b1010001100000000 = some (.ldIA 0x300) ∧
    decode 0b1011111111111111 = some (.jpV0 0xFFF) ∧ decode 0b1100001100001111 = some (.rnd 3 0x0F) := by decide
theorem test_decode_draw_keys : decode 0b1101000100100101 = some (.drw 1 2 5) ∧
    decode 0b1110010110011110 = some (.skp 5) ∧ decode 0b1110010110100001 = some (.sknp 5) := by decide
theorem test_decode_misc_timers : decode 0b1111001100000111 = some (.ldVDT 3) ∧
    decode 0b1111000000001010 = some (.ldVK 0) ∧ decode 0b1111000000010101 = some (.ldDTV 0) ∧
    decode 0b1111001000011000 = some (.ldSTV 2) := by decide
theorem test_decode_misc_index : decode 0b1111000100011110 = some (.addIV 1) ∧
    decode 0b1111010000101001 = some (.ldFV 4) ∧ decode 0b1111101000110011 = some (.ldBV 0xA) ∧
    decode 0b1111000101010101 = some (.ldMV 1) ∧ decode 0b1111001001100101 = some (.ldVM 2) := by decide
theorem test_decodeBytes_msb_first : decodeBytes [0x12, 0x04, 0x33] = some (.jp 0x204, [0x33]) ∧
    decodeBytes [0x12] = none := by decide
theorem test_decodeTableWord : decodeTableWord 16 0x6A05 = some (.ldVB 0xA 5) ∧ decodeTableWord 16 0xF000 = none := by
  decide
theorem test_opcodeTable_has_34_rows : opcodeTable.length = 34 := by decide

/-! ### One step of each instruction -/

/-- V1 -/
theorem test_cls : stepIs (pixels [⟨1, 0⟩] (at' 0x200 0x00E0)) (fun t =>
    t.pc == 0x202 && t.screen == [] && t.history == [.blank]) = true := by decide
/-- V2 (the entry is 0x202 here), V3 -/
theorem test_ret : stepIs (depth 1 (at' 0x212 0x00EE)) (fun t => t.pc == 0x202 && t.sp == 0) = true := by decide
theorem test_ret_underflow : stepIs (at' 0x200 0x00EE) (fun t => t.pc == 0x200 &&
    t.run == .halted (.fatal .stackUnderflow 0x00EE 0x200) &&
    t.history == [.fatalReport .stackUnderflow 0x00EE 0x200]) = true := by decide
/-- V9, V11 -/
theorem test_jp : stepIs (at' 0x20A 0x1204) (fun t => t.pc == 0x204) = true := by decide
theorem test_jp_odd : stepIs (at' 0x200 0x1201) (fun t => t.pc == 0x201) = true := by decide
/-- V13, V14; V15 -/
theorem test_call : stepIs (depth 15 (at' 0x200 0x2300)) (fun t =>
    t.pc == 0x300 && t.sp == 16 && t.stackEntry 15 == 0x202) = true ∧
    stepIs (at' 0xFFE 0x2000) (fun t => t.pc == 0 && t.sp == 1 && t.stackEntry 0 == 0) = true := by decide
theorem test_call_overflow : stepIs (depth 16 (at' 0x200 0x2300)) (fun t => t.pc == 0x200 && t.sp == 16 &&
    t.run == .halted (.fatal .stackOverflow 0x2300 0x200)) = true := by decide
/-- V16, V17; V19 -/
theorem test_seVB : stepIs (at' 0x208 0x3300) (fun t => t.pc == 0x20C) = true ∧
    stepIs (at' 0x208 0x3301) (fun t => t.pc == 0x20A) = true := by decide
theorem test_seVB_wraps : stepIs (at' 0xFFE 0x3000) (fun t => t.pc == 0x002) = true := by decide
/-- V20, V21 -/
theorem test_sneVB : stepIs (regs [(3, 1)] (at' 0x208 0x4300)) (fun t => t.pc == 0x20C) = true ∧
    stepIs (at' 0x208 0x4300) (fun t => t.pc == 0x20A) = true := by decide
/-- V24, V23 -/
theorem test_seVV : stepIs (regs [(1, 0x7F), (2, 0x7F)] (at' 0x300 0x512F)) (fun t => t.pc == 0x304) = true ∧
    stepIs (regs [(1, 0x7F), (2, 0x80)] (at' 0x300 0x5120)) (fun t => t.pc == 0x302) = true := by decide
/-- V26, V28 -/
theorem test_sneVV : stepIs (regs [(1, 0x7F), (2, 0x80)] (at' 0x300 0x9120)) (fun t => t.pc == 0x304) = true ∧
    stepIs (regs [(5, 0x12)] (at' 0x200 0x9555)) (fun t => t.pc == 0x202) = true := by decide
/-- V29, V30 -/
theorem test_ldVB : stepIs (at' 0x200 0x6A05) (fun t => t.pc == 0x202 && t.reg 10 == 5) = true ∧
    stepIs (at' 0x200 0x6FFF) (fun t => t.reg vf == 0xFF) = true := by decide
/-- V32, V34 -/
theorem test_addVB : stepIs (regs [(0, 0xFF), (15, 0x55)] (at' 0x200 0x7001)) (fun t =>
    t.reg 0 == 0 && t.reg vf == 0x55) = true := by decide
theorem test_addVB_vf : stepIs (regs [(15, 0xFF)] (at' 0x200 0x7F01)) (fun t => t.reg vf == 0) = true := by decide
/-- V35 -/
theorem test_ldVV : stepIs (regs [(1, 0x3C), (15, 1)] (at' 0x200 0x8010)) (fun t =>
    t.reg 0 == 0x3C && t.reg vf == 1) = true := by decide
/-- V37, V41 -/
theorem test_or : stepIs (regs [(0, 0x0F), (1, 0xF0), (15, 1)] (at' 0x200 0x8011)) (fun t =>
    t.reg 0 == 0xFF && t.reg vf == 0) = true := by decide
theorem test_or_vf : stepIs (regs [(15, 1), (0, 0xF0)] (at' 0x200 0x8F01)) (fun t => t.reg vf == 0) = true := by decide
/-- V38 -/
theorem test_and : stepIs (regs [(0, 0x3C), (1, 0x0F), (15, 1)] (at' 0x200 0x8012)) (fun t =>
    t.reg 0 == 0x0C && t.reg vf == 0) = true := by decide
/-- V39, V40 -/
theorem test_xor : stepIs (regs [(0, 0xFF), (1, 0x0F)] (at' 0x200 0x8013)) (fun t => t.reg 0 == 0xF0) = true ∧
    stepIs (regs [(0, 0xAB), (15, 1)] (at' 0x200 0x8003)) (fun t => t.reg 0 == 0 && t.reg vf == 0) = true := by decide
/-- V42, V45; V47, V48 -/
theorem test_addVV : stepIs (regs [(0, 0xFF), (1, 3)] (at' 0x200 0x8014)) (fun t =>
    t.reg 0 == 2 && t.reg vf == 1) = true ∧
    stepIs (regs [(0, 0xFF), (15, 1)] (at' 0x200 0x8014)) (fun t => t.reg 0 == 0xFF && t.reg vf == 0) = true := by decide
theorem test_addVV_vf : stepIs (regs [(15, 0xF0), (0, 0x20)] (at' 0x200 0x8F04)) (fun t => t.reg vf == 1) = true ∧
    stepIs (regs [(15, 1), (0, 0x10)] (at' 0x200 0x80F4)) (fun t => t.reg 0 == 0x11 && t.reg vf == 0) = true := by decide
/-- V49, V50 -/
theorem test_sub : stepIs (regs [(0, 1), (1, 2)] (at' 0x200 0x8015)) (fun t =>
    t.reg 0 == 0xFF && t.reg vf == 0) = true ∧
    stepIs (regs [(0, 5), (1, 5)] (at' 0x200 0x8015)) (fun t => t.reg 0 == 0 && t.reg vf == 1) = true := by decide
/-- V54, V56 -/
theorem test_shr : stepIs (regs [(1, 0x80), (10, 1)] (at' 0x200 0x81A6)) (fun t =>
    t.reg 1 == 0x40 && t.reg vf == 0) = true := by decide
theorem test_shr_vf : stepIs (regs [(15, 3)] (at' 0x200 0x8F06)) (fun t => t.reg vf == 1) = true := by decide
/-- V57, V58 -/
theorem test_subn : stepIs (regs [(0, 1), (1, 5)] (at' 0x200 0x8017)) (fun t =>
    t.reg 0 == 4 && t.reg vf == 1) = true ∧
    stepIs (regs [(0, 2), (1, 1)] (at' 0x200 0x8017)) (fun t => t.reg 0 == 0xFF && t.reg vf == 0) = true := by decide
/-- V60, V61 -/
theorem test_shl : stepIs (regs [(4, 0x81)] (at' 0x200 0x840E)) (fun t => t.reg 4 == 2 && t.reg vf == 1) = true ∧
    stepIs (regs [(0, 0x7F)] (at' 0x200 0x800E)) (fun t => t.reg 0 == 0xFE && t.reg vf == 0) = true := by decide
/-- V66 -/
theorem test_ldIA : stepIs (at' 0x200 0xA300) (fun t => t.i == 0x300 && t.pc == 0x202) = true := by decide
/-- V69, V70 -/
theorem test_jpV0 : stepIs (regs [(0, 2)] (at' 0x200 0xBFFF)) (fun t => t.pc == 0x001) = true ∧
    stepIs (regs [(5, 0x10)] (at' 0x200 0xB5FF)) (fun t => t.pc == 0x5FF) = true := by decide
/-- V71 -/
theorem test_rnd : stepIs (rand [0xA7] (at' 0x200 0xC30F)) (fun t =>
    t.reg 3 == 7 && t.inputs.rand == [] && t.history == [.rand 0xA7]) = true := by decide
/-- V75 -/
theorem test_drw_collision : stepIs (pixels [⟨1, 0⟩] (at' 0x200 0xD015)) (fun t => t.reg vf == 1 &&
    !t.screen.isOn ⟨1, 0⟩ && t.screen.isOn ⟨0, 0⟩ &&
    t.history == [.draw 0 0 [0xF0, 0x90, 0x90, 0x90, 0xF0] true]) = true := by decide
/-- V77 -/
theorem test_drw_wraps : stepIs (bytes 0x300 [0xC0] (regs [(1, 0x3F), (2, 0x1F)]
    { at' 0x200 0xD121 with i := 0x300 })) (fun t =>
    t.reg vf == 0 && t.screen == [⟨0, 31⟩, ⟨63, 31⟩]) = true := by decide
/-- V80, V81; V84 -/
theorem test_skp : stepIs (keys [key4] (regs [(5, 4)] (at' 0x220 0xE59E))) (fun t =>
    t.pc == 0x224 && t.history == [.isKeyPressed 4 true]) = true ∧
    stepIs (keys [noKey] (regs [(5, 4)] (at' 0x220 0xE59E))) (fun t => t.pc == 0x222) = true := by decide
theorem test_skp_key_range : stepIs (regs [(5, 0x10)] (at' 0x220 0xE59E)) (fun t => t.pc == 0x220 &&
    t.history == [.fatalReport .keyOutOfRange 0xE59E 0x220]) = true := by decide
/-- V82, V83; V85 -/
theorem test_sknp : stepIs (keys [noKey] (regs [(5, 4)] (at' 0x220 0xE5A1))) (fun t => t.pc == 0x224) = true ∧
    stepIs (keys [key4] (regs [(5, 4)] (at' 0x220 0xE5A1))) (fun t => t.pc == 0x222) = true := by decide
theorem test_sknp_key_range : stepIs (regs [(5, 0xFF)] (at' 0x220 0xE5A1)) (fun t =>
    t.run == .halted (.fatal .keyOutOfRange 0xE5A1 0x220)) = true := by decide
/-- V87; T13: a tick due in the same wakeup runs first -/
theorem test_ldVDT : stepIs { at' 0x200 0xF307 with dt := 42 } (fun t => t.reg 3 == 42) = true ∧
    stepIs (ticking (at' 0x200 0xF307)) (fun t => t.reg 3 == 4) = true := by decide
/-- V89, V91 -/
theorem test_ldVK_press : stepIs (keys [key8] (at' 0x200 0xF00A)) (fun t =>
    t.pc == 0x200 && t.latch == some 8 && t.reg 0 == 0) = true ∧
    stepIs (keys [key3] { at' 0x200 0xF00A with latch := some 8 }) (fun t =>
      t.pc == 0x200 && t.latch == some 8 && t.history == [.getPressedKey (some 3)]) = true := by decide
/-- V93 -/
theorem test_ldVK_release : stepIs (keys [noKey] (regs [(15, 1)] { at' 0x200 0xFF0A with latch := some 12 }))
    (fun t => t.pc == 0x202 && t.latch == none && t.reg vf == 12) = true := by decide
/-- V94 -/
theorem test_ldDTV : stepIs (regs [(0, 5)] (at' 0x200 0xF015)) (fun t => t.dt == 5) = true := by decide
/-- V95 -/
theorem test_ldSTV : stepIs (regs [(2, 0x1E)] (at' 0x200 0xF218)) (fun t => t.st == 30 && t.history == []) = true := by
  decide
/-- V97 -/
theorem test_addIV : stepIs (regs [(0, 1), (15, 7)] { at' 0x200 0xF01E with i := 0xFFF }) (fun t =>
    t.i == 0 && t.reg vf == 7) = true := by decide
/-- V98, V101 -/
theorem test_ldFV : stepIs (regs [(4, 0x0A)] (at' 0x200 0xF429)) (fun t => t.i == 0x032) = true ∧
    stepIs (regs [(4, 0xFF)] (at' 0x200 0xF429)) (fun t => t.i == 0x4FB) = true := by decide
/-- V102; V105 -/
theorem test_ldBV : stepIs (regs [(10, 0x7B)] { at' 0x200 0xFA33 with i := 0x300 }) (fun t =>
    t.readByte 0x300 == 1 && t.readByte 0x301 == 2 && t.readByte 0x302 == 3) = true := by decide
theorem test_ldBV_wraps : stepIs (bytes 0xFFF [9] (regs [(10, 0x2A)] { at' 0x200 0xFA33 with i := 0xFFF })) (fun t =>
    t.readByte 0xFFF == 0 && t.readByte 0 == 4 && t.readByte 1 == 2) = true := by decide
/-- V106, V107; V108 -/
theorem test_ldMV : stepIs (regs [(0, 0x11), (1, 0x22)] { at' 0x200 0xF055 with i := 0x400 }) (fun t =>
    t.readByte 0x400 == 0x11 && t.readByte 0x401 == 0 && t.i == 0x400) = true := by decide
theorem test_ldMV_wraps : stepIs (regs [(0, 0xAA), (1, 0xBB)] { at' 0x200 0xF155 with i := 0xFFF }) (fun t =>
    t.readByte 0xFFF == 0xAA && t.readByte 0 == 0xBB) = true := by decide
/-- V109; V110 -/
theorem test_ldVM : stepIs (bytes 0x300 [1, 2, 3, 4] { at' 0x200 0xF265 with i := 0x300 }) (fun t =>
    t.reg 0 == 1 && t.reg 1 == 2 && t.reg 2 == 3 && t.reg 3 == 0 && t.i == 0x300) = true := by decide
theorem test_ldVM_wraps : stepIs (bytes 0xFFF [0x31] { at' 0x200 0xF165 with i := 0xFFF }) (fun t =>
    t.reg 0 == 0x31 && t.reg 1 == 0xF0) = true := by decide

/-! ### The machine around the instructions -/

/-- V64 -/
theorem test_undefined_word : stepIs (at' 0x200 0x8018) (fun t =>
    t.run == .halted (.fatal .undefinedInstruction 0x8018 0x200) && t.pc == 0x200) = true := by decide
/-- M7, M8 -/
theorem test_fetch : (bytes 0xFFF [0x12, 0xF0] { State.reset with pc := 0xFFF }).fetchWord = 0x12F0 ∧
    (bytes 0x201 [0x61, 0x23] { State.reset with pc := 0x201 }).fetchWord = 0x6123 := by decide
/-- M2; and writing the byte that was there before empties the list again -/
theorem test_memory_canonical : (Memory.write16 [] 0xFFF 0x1234).read16 0xFFF = 0x1234 ∧
    ((Memory.write16 [] 0xFFF 0x1234).write 0xFFF 0).write 0 0xF0 = [] := by decide
/-- R56: the first and the last row of glyph F -/
theorem test_font : State.reset.readByte 0x04B = 0xF0 ∧ State.reset.readByte 0x04F = 0x80 ∧
    State.reset.readByte 0x050 = 0 := by decide
/-- T3, T5 -/
theorem test_tick : ({ State.reset with st := 1 }.tick.history = [.render, .pause]) ∧
    { State.reset with st := 0xFF }.tick.st = 0xFE ∧ { State.reset with st := 0xFF }.tick.dt = 0 ∧
    { State.reset with st := 0xFF }.tick.audio = .playing := by decide
/-- T6: no tick at wakeup 8, the first at wakeup 9 -/
theorem test_tick_schedule : { State.reset with wakeups := 8 }.tickDue = false ∧
    { State.reset with wakeups := 9 }.tickDue = true ∧
    { State.reset with wakeups := 17, lastTick := 1 }.tickDue = true := by decide
/-- T14: the tick of a wakeup whose instruction faults stands -/
theorem test_tick_before_fault : stepIs (ticking (at' 0x200 0x0000)) (fun t => t.dt == 4 &&
    t.history == [.fatalReport .undefinedInstruction 0 0x200, .render, .play]) = true := by decide
/-- R171, clip: the column past the edge is omitted -/
theorem test_clip : drawSprite 64 32 .clip 0x3F 0 [0xC0] [] = (false, [⟨63, 0⟩]) := by decide
/-- E5, Q1 -/
theorem test_draw_twice : (drawSprite 64 32 .wrap 0 0 [0xF0] []).1 = false ∧
    drawSprite 64 32 .wrap 0 0 [0xF0] (drawSprite 64 32 .wrap 0 0 [0xF0] []).2 = (true, []) := by decide

/-! ### Witnesses: states and operands that meet the hypotheses of the obligations, clause by clause -/

/-- A step's answer, to be named in a witness. -/
def Answers (r : Result) : Prop := ∃ t, r = .next t

theorem witness_EncodeOfDecodeClearsIgnoredBits : decode 0x512F = some (.seVV 1 2) ∧ ignoredBits (.seVV 1 2) ≠ 0 := by
  decide
theorem witness_LoaderCopiesTheImage : (List.replicate 3584 (7 : Byte)).length ≤ 3584 ∧
    3583 < (List.replicate 3584 (7 : Byte)).length ∧ 3584 < (List.replicate 3585 (7 : Byte)).length := by
  simp only [List.length_replicate]; decide
theorem witness_StartUpSequence : wellFormedParams ⟨1, .oracle, .abstract⟩ = true ∧
    (List.replicate 3584 (7 : Byte)).length ≤ 3584 ∧ 3584 < (List.replicate 3585 (7 : Byte)).length := by
  simp only [List.length_replicate]; decide
theorem witness_ClearBlanksTheDisplay : State.reset.params.display = .framebuffer 64 32 .wrap ∧
    { State.reset with params := ⟨500, .oracle, .ideal⟩ }.params.display = .oracle := by decide
theorem witness_ReturnPopsOrUnderflows : 0 < (depth 1 State.reset).sp.val ∧ 0 < (depth 16 State.reset).sp.val ∧
    State.reset.sp.val = 0 := by decide
theorem witness_CallPushesOrOverflows : (depth 15 State.reset).sp.val < 16 ∧ (depth 0 State.reset).sp.val < 16 ∧
    (depth 16 State.reset).sp.val = 16 := by decide
theorem witness_ReturnUndoesCall : (depth 15 State.reset).sp.val < 16 := by decide
/-- A machine with the oracle display, its collision answers scripted. -/
def oracle (l : List Bool) (s : State) : State :=
  { s with params := ⟨500, .oracle, .ideal⟩, inputs := { s.inputs with collision := l } }

/-- N = 0; a framebuffer; an oracle display with an answer scripted, for rows with and without a set bit. -/
theorem witness_DrawReadsRowsAndSetsCollision : (0 : Fin 16).val = 0 ∧
    State.reset.params.display = .framebuffer 64 32 .wrap ∧ (oracle [true] State.reset).params.display = .oracle ∧
    (oracle [true] State.reset).inputs.collision = true :: [] ∧
    (∃ row ∈ (oracle [true] State.reset).spriteRows 1, row ≠ 0) ∧
    ∀ row ∈ (bytes 0 [0] (oracle [true] State.reset)).spriteRows 1, row = 0 := by decide
/-- The smallest wrapping display the statement covers for five rows, and a clipping display of one pixel. -/
theorem witness_FramebufferLoopMeetsDrawContract : (8 ≤ 8 ∧ ([1, 2, 3, 4, 0xFF] : List Byte).length ≤ 5) ∧
    Screen.wf (.framebuffer 8 5 .wrap) [⟨0, 0⟩, ⟨7, 4⟩] = true ∧
    Screen.wf (.framebuffer 1 1 .clip) [⟨0, 0⟩] = true := by decide
theorem witness_DrawingTwiceRestoresThePixels : Screen.wf (.framebuffer 8 5 .wrap) [⟨7, 4⟩] = true ∧
    (drawSprite 8 5 .wrap 0 0 [0xF0] [⟨7, 4⟩]).1 = false := by decide
theorem witness_EmptySpriteNeverCollides : ∀ row ∈ ([0, 0] : List Byte), row = 0 := by decide
theorem witness_KeySkipsSampleTheKeyOrAreFatal : ((regs [(5, 15)] State.reset).reg 5).toNat = (15 : Key).val ∧
    ((regs [(5, 0)] State.reset).reg 5).toNat = (0 : Key).val ∧ 15 < ((regs [(5, 16)] State.reset).reg 5).toNat := by
  decide
theorem witness_PressedKeyContract : key8.pressed = some 8 ∧ noKey.pressed = none ∧
    (0x8001 : BitVec 16).getLsbD (15 : Key).val = true ∧
    (keys [key8, noKey] (regs [(5, 15)] State.reset)).inputs.keys = key8 :: [noKey] ∧
    ((keys [key8, noKey] (regs [(5, 15)] State.reset)).reg 5).toNat = (15 : Key).val := by decide
theorem witness_KeyWaitPressThenRelease : State.reset.latch = none ∧ (keys [key8] State.reset).latch = none ∧
    (keys [key3] { State.reset with latch := some 8 }).latch = some 8 ∧
    (keys [key3] { State.reset with latch := some 8 }).inputs.keySample.pressed = some 3 ∧
    (keys [noKey] { State.reset with latch := some 8 }).inputs.keySample.pressed = none := by decide
theorem witness_StoreRegisters_LoadRegisters : (15 : Reg) ≤ 15 ∧ (0 : Reg) ≤ 0 ∧ (14 : Reg) < 15 := by decide
/-- After the store, another state with the same I and the same memory but other registers. -/
theorem witness_LoadRegistersUndoesStoreRegisters : ∃ t u : State, exec (.ldMV 15) State.reset = .next t ∧
    u.i = State.reset.i ∧ (∀ a, u.readByte a = t.readByte a) ∧ u.reg 3 = 0xFF ∧ t.reg 3 = 0 :=
  ⟨_, (State.reset.storeAtI (State.reset.regsUpTo 15)).setReg 3 0xFF, rfl, rfl, fun _ => rfl, by decide, by decide⟩
/-- Stores over both bytes of the next instruction (program P7), over its first byte only, its second only and neither. -/
theorem witness_StoreIsSeenByNextFetch : (0x208 + 0) % 4096 = (0x206 + 2) % 4096 ∧ (0x208 + 1) % 4096 = (0x206 + 3) % 4096 ∧
    (let s := regs [(0, 0x12), (1, 0x0C)] { at' 0x206 0xF155 with i := 0x208 }
     (s.storeAtI (s.regsUpTo 1)).fall.fetchWord = 0x120C ∧ (s.storeAtI (s.regsUpTo 0)).fall.fetchWord = 0x1200) ∧
    (let s := regs [(10, 0x7B)] { at' 0x206 0xFA33 with i := 0x207 }
     (s.storeAtI (bcdDigits (s.reg 10))).fall.fetchWord = 0x0203) ∧
    (let s := regs [(10, 0x7B)] { at' 0xFFC 0xFA33 with i := 0xFFD }
     (s.storeAtI (bcdDigits (s.reg 10))).fall.fetchWord = 0x0203) ∧
    (let s := regs [(0, 0x12)] { at' 0x206 0xF055 with i := 0x209 }
     (s.storeAtI (s.regsUpTo 0)).fall.fetchWord = 0x0012) ∧
    (let s := regs [(0, 0x12)] { at' 0x206 0xF055 with i := 0x20A }
     (s.storeAtI (s.regsUpTo 0)).fall.fetchWord = 0x0000) := by decide
theorem witness_TickEffect : 0 < { State.reset with st := 2 }.tick.st.toNat ∧
    { State.reset with st := 1 }.tick.st.toNat = 0 := by decide
theorem witness_IdealTickIsDueBySixtieths : State.reset.params.timing = .ideal ∧ 1 ≤ State.reset.params.fHz ∧
    (ticking State.reset).tickDue = true ∧ State.reset.tickDue = false := by decide
theorem witness_WakeupStartsWithDueTick : (ticking State.reset).tickDue = true ∧ State.reset.tickDue = false ∧
    { State.reset with inputs := { Inputs.none with cancelAfter := some 1 } }.inputs.cancelAfter = some (0 + 1) ∧
    State.reset.inputs.cancelAfter = none ∧ State.reset.params.timing = .ideal ∧
    { State.reset with
      params := ⟨500, .oracle, .abstract⟩
      inputs := { Inputs.none with tick := [true] } }.inputs.tick = true :: [] := by decide
theorem witness_StepRunsDecodedInstruction : (at' 0x200 0x6A05).Ready ∧
    decodeBytes [(at' 0x200 0x6A05).readByte 0x200, (at' 0x200 0x6A05).readByte (0x200 + 1)] = some (.ldVB 10 5, []) :=
  ⟨⟨by decide, rfl, by decide⟩, by decide⟩
theorem witness_PlacedWordIsRun : State.reset.Ready ∧ 0x6A05 < 65536 ∧
    decodeTableWord 16 0x6A05 = some (.ldVB 10 5) := ⟨⟨by decide, rfl, by decide⟩, by decide, by decide⟩
theorem witness_UndefinedWordIsFatal : (at' 0x200 0x8018).Ready ∧ undefinedWord (at' 0x200 0x8018).fetchWord = true :=
  ⟨⟨by decide, rfl, by decide⟩, by decide⟩
theorem witness_FatalErrorsArePrecise : exec .ret State.reset = .next (State.reset.takeFatal .stackUnderflow 0x00EE) ∧
    (State.reset.takeFatal .stackUnderflow 0x00EE).run ≠ State.reset.run := ⟨rfl, by decide⟩
theorem witness_HaltedCoreDoesNothing : wellFormedParams State.reset.cancel.params = true ∧
    State.reset.cancel.run = .halted .cancelled := by decide
theorem witness_CancellationHaltsBetweenWakeups :
    { State.reset with inputs := { Inputs.none with cancelAfter := some 0 } }.inputs.cancelAfter = some 0 ∧
    State.reset.run = .running ∧ wellFormedParams State.reset.params = true := by decide
/-- A step of a run whose host asks for no cancellation. -/
theorem witness_CancellationHaltsBetweenWakeups_none : (at' 0x200 0x6A05).inputs.cancelAfter = none ∧
    Answers (step (at' 0x200 0x6A05)) := ⟨rfl, _, rfl⟩
theorem witness_NothingFaultsOrIsRefused : wellFormedParams State.reset.params = true := by decide
/-- The whole-machine statements over `exec`, each of which asks for a next state (and a flag writer). -/
theorem witness_OnlyDestinationsAreWritten : Answers (exec (.ldVB 3 0x05) State.reset) := ⟨_, rfl⟩
theorem witness_FlagWritesAreZeroOrOne : writesFlag (.addVV 0 1) = true ∧ Answers (exec (.addVV 0 1) State.reset) :=
  ⟨rfl, _, rfl⟩
theorem witness_InstructionsChangeOnlyTheirParts : Answers (exec (.ldMV 15) State.reset) := ⟨_, rfl⟩
theorem witness_InstructionsIssueOnlyTheirTransactions : Answers (exec .cls State.reset) := ⟨_, rfl⟩
theorem witness_SoundTimerIsNeverRead : Answers (exec (.ldSTV 2) State.reset) := ⟨_, rfl⟩
theorem witness_OneAudioCommandPerRender : Answers (step (ticking (at' 0x200 0x6A05))) := ⟨_, rfl⟩
/-- A state with a byte stored, a pixel lit, and a step from it. -/
theorem witness_StepKeepsCanonicalForm : (pixels [⟨63, 31⟩] (at' 0x200 0x6A05)).Canonical ∧
    Answers (step (pixels [⟨63, 31⟩] (at' 0x200 0x6A05))) := ⟨⟨by decide, by decide, by decide⟩, _, rfl⟩
/-- A halted state whose report is its own PC and word, and a step from it. -/
theorem witness_StepKeepsReportPrecise : ((at' 0x200 0x8018).takeFatal .undefinedInstruction 0x8018).ReportPrecise ∧
    Answers (step ((at' 0x200 0x8018).takeFatal .undefinedInstruction 0x8018)) := by
  refine ⟨fun k w p h => ?_, _, rfl⟩
  simp only [takeFatal_run, RunState.halted.injEq, HaltReason.fatal.injEq] at h
  obtain ⟨-, rfl, rfl⟩ := h
  decide
/-- T6 (F_HZ = 500, the wakeup of the second tick) and T11 (F_HZ = 30), and a step from the first. -/
theorem witness_StepKeepsTickSchedule : { at' 0x200 0x6A05 with wakeups := 17, lastTick := 1 }.OnSchedule ∧
    { State.reset with params := ⟨30, .oracle, .ideal⟩, wakeups := 7, lastTick := 6 }.OnSchedule ∧
    Answers (step { at' 0x200 0x6A05 with wakeups := 17, lastTick := 1 }) :=
  ⟨fun _ => by decide, fun _ => by decide, _, rfl⟩

end Sys2Proof.Tests
end

section
/-! PROOF. The transactions of an instruction and of a step: the output history after each (R9 to R12, R14, R147, R157
to R160). -/

namespace Sys2Proof.Machine

/-! ### What an instruction adds to the output history -/

/-- Case by case over the instructions: those that use a port add its one transaction (R9, R10, R12), RET, CALL and the
key skips may instead add the report of their fatal error (R147, R148), and the others add nothing. -/
theorem exec_history_cases {i : Instr} {s t : State} (h : exec i s = .next t) :
    t.history = s.history ∨ ∃ e, t.history = e :: s.history ∧ mayIssue i e = true := by
  cases i
  case cls | rnd | drw =>
    injection h with h; subst h
    exact .inr ⟨_, rfl, rfl⟩
  case ret =>
    obtain ⟨-, rfl⟩ | ⟨-, rfl⟩ := exec_ret_cases h
    · exact .inr ⟨_, takeFatal_history .., rfl⟩
    · exact .inl rfl
  case call =>
    obtain ⟨-, rfl⟩ | ⟨-, rfl⟩ := exec_call_cases h
    · exact .inr ⟨_, takeFatal_history .., rfl⟩
    · exact .inl rfl
  case skp =>
    obtain ⟨-, rfl⟩ | ⟨k, -, rfl⟩ := exec_skp_cases h
    · exact .inr ⟨_, takeFatal_history .., rfl⟩
    · exact .inr ⟨_, isKeyPressed_history s k, rfl⟩
  case sknp =>
    obtain ⟨-, rfl⟩ | ⟨k, -, rfl⟩ := exec_sknp_cases h
    · exact .inr ⟨_, takeFatal_history .., rfl⟩
    · exact .inr ⟨_, isKeyPressed_history s k, rfl⟩
  case ldVK =>
    refine .inr ⟨.getPressedKey s.inputs.keySample.pressed, ?_, rfl⟩
    obtain ⟨-, -, rfl⟩ | ⟨k, -, -, rfl⟩ | ⟨k, -, -, rfl⟩ | ⟨k, o, -, -, rfl⟩ := exec_ldVK_cases h <;>
      exact getPressedKey_history s
  case ldVM x =>
    injection h with h; subst h
    exact .inl (loadRegs_history s x)
  all_goals (injection h with h; subst h; exact .inl rfl)

/-! ### Audio commands and renders -/

/-- Only the tick renders and commands the Audio device, and no instruction is a tick (R157, R158). -/
theorem not_audio_or_render_of_mayIssue {i : Instr} {e : Event} (h : mayIssue i e = true) :
    ¬ (e = .play ∨ e = .pause) ∧ e ≠ .render := by
  cases e <;> simp_all [mayIssue]

theorem audioCommands_cons_of_not {e : Event} (h : List Event) (he : ¬ (e = .play ∨ e = .pause)) :
    audioCommands (e :: h) = audioCommands h := List.countP_cons_of_neg (by simpa using he)

theorem renders_cons_of_ne {e : Event} (h : List Event) (he : e ≠ .render) :
    renders (e :: h) = renders h := List.countP_cons_of_neg (by simpa using he)

theorem exec_audioCommands_renders {i : Instr} {s t : State} (h : exec i s = .next t) :
    audioCommands t.history = audioCommands s.history ∧ renders t.history = renders s.history := by
  obtain hh | ⟨e, hh, he⟩ := exec_history_cases h
  · simp only [hh, and_self]
  · obtain ⟨ha, hr⟩ := not_audio_or_render_of_mayIssue he
    rw [hh]
    exact ⟨audioCommands_cons_of_not _ ha, renders_cons_of_ne _ hr⟩

@[simp] theorem beginWakeup_history (s : State) :
    s.beginWakeup.history = if s.tickDue then s.tick.history else s.history := by
  cases h : s.tickDue <;> simp [State.beginWakeup, State.tickIf, h]

/-- A tick issues one Audio command and one render (R157, R158). -/
theorem tick_audioCommands_renders (s : State) :
    audioCommands s.tick.history = audioCommands s.history + 1 ∧ renders s.tick.history = renders s.history + 1 := by
  simp only [tick_eq, audioCommands, renders]
  split <;> simp

/-- The start of a wakeup issues both iff its tick is due (R160). -/
theorem beginWakeup_audioCommands_renders (s : State) :
    audioCommands s.beginWakeup.history = audioCommands s.history + s.tickDue.toNat ∧
      renders s.beginWakeup.history = renders s.history + s.tickDue.toNat := by
  cases h : s.tickDue
  · simp [h]
  · simpa [h] using tick_audioCommands_renders s

end Sys2Proof.Machine

open Sys2Proof Sys2Proof.Machine

/-- Settles O55: the event an instruction adds, case by case over the instructions. -/
theorem instructionsIssueOnlyTheirTransactions : Obligations.InstructionsIssueOnlyTheirTransactions :=
  fun _ _ _ => exec_history_cases

/-- Settles O56: a step adds what the start of its wakeup adds, one of each iff the tick is due; a halted or cancelled
CORE adds neither, and neither the instruction nor a fatal report after the tick is an Audio command or a render. -/
theorem oneAudioCommandPerRender : Obligations.OneAudioCommandPerRender := by
  intro s t h
  obtain ⟨ha, hr⟩ := beginWakeup_audioCommands_renders s
  obtain ⟨-, ⟨_, -, rfl⟩ | ⟨-, -, rfl⟩ | ⟨-, -, -, rfl⟩ | ⟨-, -, i, -, he⟩⟩ := step_cases h
  · exact ⟨0, by omega, rfl, rfl⟩
  · exact ⟨0, by omega, rfl, rfl⟩
  · refine ⟨s.tickDue.toNat, Bool.toNat_le _, ?_, ?_⟩
    · rw [takeFatal_history, audioCommands_cons_of_not _ (by simp), ha]
    · rw [takeFatal_history, renders_cons_of_ne _ (by simp), hr]
  · obtain ⟨hai, hri⟩ := exec_audioCommands_renders he
    exact ⟨s.tickDue.toNat, Bool.toNat_le _, hai.trans ha, hri.trans hr⟩
end

section
/-! PROOF. Which parts of the state and which registers an instruction can change (R25 to R28, R33 to R38): one frame
rule per update, chained in the order of the instruction's own updates; the call stack as last-in first-out (R36);
that nothing reads ST (R35); and what reset leaves. -/

namespace Sys2Proof.Machine

/-! ### Frames, update by update

Each rule puts the part an update writes in front of those written before it, so that a chain of rules reads as the
chain of updates in an instruction's meaning. -/

section
variable {ps qs : List Part} {s t u : State}

theorem Part.same_refl (p : Part) (s : State) : p.same s s := by cases p <;> simp [Part.same]

theorem Part.same_trans {p : Part} (h : p.same s t) (h' : p.same t u) : p.same s u := by
  cases p <;> simp_all [Part.same]

theorem SameBut.refl (s : State) : SameBut [] s s := fun p _ => p.same_refl s

theorem SameBut.trans (h : SameBut ps s t) (h' : SameBut qs t u) : SameBut (qs ++ ps) s u := fun p hp =>
  have ⟨hq, hp⟩ := not_or.mp (mt List.mem_append.mpr hp)
  Part.same_trans (h p hp) (h' p hq)

theorem SameBut.mono (h : SameBut ps s t) (hsub : ps ⊆ qs) : SameBut qs s t := fun p hp => h p (mt (@hsub p) hp)

theorem SameBut.fall (h : SameBut ps s t) : SameBut (.pc :: ps) s t.fall :=
  h.trans (qs := [.pc]) fun p hp => by cases p <;> simp_all [Part.same]

theorem SameBut.goto (h : SameBut ps s t) (a : Addr) : SameBut (.pc :: ps) s (t.goto a) :=
  h.trans (qs := [.pc]) fun p hp => by cases p <;> simp_all [Part.same]

theorem SameBut.skipIf (h : SameBut ps s t) (c : Bool) : SameBut (.pc :: ps) s (t.skipIf c) :=
  h.trans (qs := [.pc]) fun p hp => by cases p <;> simp_all [Part.same]

theorem SameBut.setReg (h : SameBut ps s t) (r : Reg) (b : Byte) : SameBut (.regs :: ps) s (t.setReg r b) :=
  h.trans (qs := [.regs]) fun p hp => by cases p <;> simp_all [Part.same]

theorem SameBut.setRegFlag (h : SameBut ps s t) (r : Reg) (b : Byte) (f : Bool) :
    SameBut (.regs :: ps) s (t.setRegFlag r b f) :=
  ((h.setReg r b).setReg vf (flagByte f)).mono (by simp)

theorem SameBut.loadRegs (h : SameBut ps s t) (x : Reg) : SameBut (.regs :: ps) s (t.loadRegs x) :=
  h.trans (qs := [.regs]) fun p hp => by cases p <;> simp_all [Part.same]

theorem SameBut.setIndex (h : SameBut ps s t) (a : Addr) : SameBut (.index :: ps) s (t.setIndex a) :=
  h.trans (qs := [.index]) fun p hp => by cases p <;> simp_all [Part.same]

theorem SameBut.setDelay (h : SameBut ps s t) (b : Byte) : SameBut (.delay :: ps) s (t.setDelay b) :=
  h.trans (qs := [.delay]) fun p hp => by cases p <;> simp_all [Part.same]

theorem SameBut.setSound (h : SameBut ps s t) (b : Byte) : SameBut (.sound :: ps) s (t.setSound b) :=
  h.trans (qs := [.sound]) fun p hp => by cases p <;> simp_all [Part.same]

theorem SameBut.setLatch (h : SameBut ps s t) (o : Option Key) : SameBut (.latch :: ps) s (t.setLatch o) :=
  h.trans (qs := [.latch]) fun p hp => by cases p <;> simp_all [Part.same]

theorem SameBut.storeAtI (h : SameBut ps s t) (bs : List Byte) : SameBut (.memory :: ps) s (t.storeAtI bs) :=
  h.trans (qs := [.memory]) fun p hp => by cases p <;> simp_all [Part.same]

theorem SameBut.push (h : SameBut ps s t) (a : Addr) : SameBut (.stack :: ps) s (t.push a) :=
  h.trans (qs := [.stack]) fun p hp => by cases p <;> simp_all [Part.same]

theorem SameBut.pop (h : SameBut ps s t) : SameBut (.stack :: ps) s t.pop :=
  h.trans (qs := [.stack]) fun p hp => by cases p <;> simp_all [Part.same]

/-! The port transactions and the fatal entry write several parts at once. -/

theorem sameBut_displayBlank (s : State) : SameBut [.screen, .history] s s.displayBlank :=
  fun p hp => by cases p <;> simp_all [Part.same]

theorem sameBut_displayDraw (s : State) (x y : Byte) (rows : List Byte) :
    SameBut [.screen, .inputs, .history] s (s.displayDraw x y rows).2 :=
  fun p hp => by cases p <;> simp_all [Part.same]

theorem sameBut_isKeyPressed (s : State) (k : Key) : SameBut [.inputs, .history] s (s.isKeyPressed k).2 :=
  fun p hp => by cases p <;> simp_all [Part.same]

theorem sameBut_getPressedKey (s : State) : SameBut [.inputs, .history] s s.getPressedKey.2 :=
  fun p hp => by cases p <;> simp_all [Part.same]

theorem sameBut_randByte (s : State) : SameBut [.inputs, .history] s s.randByte.2 :=
  fun p hp => by cases p <;> simp_all [Part.same]

theorem sameBut_takeFatal (s : State) (k : FatalKind) (w : Word) : SameBut [.run, .history] s (s.takeFatal k w) :=
  have ⟨_, _, h⟩ := fatalTaken s k w
  h

end

/-! ### What an instruction changes -/

/-- The branching instructions change, on each branch, at most what they may; for the others the chain of updates
gives exactly the parts of `changes`. -/
theorem exec_sameBut {i : Instr} {s t : State} (h : exec i s = .next t) : SameBut (changes i) s t := by
  cases i
  case ret =>
    obtain ⟨-, rfl⟩ | ⟨-, rfl⟩ := exec_ret_cases h
    · exact (sameBut_takeFatal s _ _).mono (by simp [changes])
    · exact ((SameBut.refl s).pop.goto _).mono (by simp [changes])
  case call =>
    obtain ⟨-, rfl⟩ | ⟨-, rfl⟩ := exec_call_cases h
    · exact (sameBut_takeFatal s _ _).mono (by simp [changes])
    · exact (((SameBut.refl s).push _).goto _).mono (by simp [changes])
  case skp =>
    obtain ⟨-, rfl⟩ | ⟨k, -, rfl⟩ := exec_skp_cases h
    · exact (sameBut_takeFatal s _ _).mono (by simp [changes])
    · exact ((sameBut_isKeyPressed s k).skipIf _).mono (by simp [changes])
  case sknp =>
    obtain ⟨-, rfl⟩ | ⟨k, -, rfl⟩ := exec_sknp_cases h
    · exact (sameBut_takeFatal s _ _).mono (by simp [changes])
    · exact ((sameBut_isKeyPressed s k).skipIf _).mono (by simp [changes])
  case ldVK =>
    have hq := sameBut_getPressedKey s
    obtain ⟨-, -, rfl⟩ | ⟨k, -, -, rfl⟩ | ⟨k, -, -, rfl⟩ | ⟨k, o, -, -, rfl⟩ := exec_ldVK_cases h
    · exact hq.mono (by simp [changes])
    · exact (hq.setLatch _).mono (by simp [changes])
    · exact ((hq.setReg _ _).setLatch _).fall.mono (by simp [changes])
    · exact hq.mono (by simp [changes])
  all_goals (injection h with h; subst h)
  case cls => exact (sameBut_displayBlank s).fall
  case jp | jpV0 => exact (SameBut.refl s).goto _
  case seVB | sneVB | seVV | sneVV => exact (SameBut.refl s).skipIf _
  case ldVB | addVB | ldVV | ldVDT => exact ((SameBut.refl s).setReg _ _).fall
  case or | and | xor | addVV | sub | shr | subn | shl => exact ((SameBut.refl s).setRegFlag _ _ _).fall
  case ldIA | addIV | ldFV => exact ((SameBut.refl s).setIndex _).fall
  case rnd => exact ((sameBut_randByte s).setReg _ _).fall
  case drw => exact ((sameBut_displayDraw s _ _ _).setReg _ _).fall
  case ldDTV => exact ((SameBut.refl s).setDelay _).fall
  case ldSTV => exact ((SameBut.refl s).setSound _).fall
  case ldBV | ldMV => exact ((SameBut.refl s).storeAtI _).fall
  case ldVM => exact ((SameBut.refl s).loadRegs _).fall

/-! ### Which registers it writes -/

theorem regsSameBut_setReg (s : State) (r : Reg) (b : Byte) : RegsSameBut [r] s (s.setReg r b) :=
  fun q hq => by rw [reg_setReg, if_neg (mt List.mem_singleton.mpr hq)]

theorem regsSameBut_setRegFlag (s : State) (r : Reg) (b : Byte) (f : Bool) :
    RegsSameBut [r, vf] s (s.setRegFlag r b f) := fun q hq => by
  obtain ⟨hr, hf⟩ : q ≠ r ∧ q ≠ vf := by simpa using hq
  rw [reg_setRegFlag, if_neg hf, if_neg hr]

theorem regsSameBut_loadRegs (s : State) (x : Reg) :
    RegsSameBut ((List.finRange 16).filter (fun k => k ≤ x)) s (s.loadRegs x) :=
  fun q hq => by rw [reg_loadRegs, if_neg (by simpa using hq)]

/-- An instruction whose parts leave out the registers writes none; the others end in one register write, in a result
with its flag, or in a run of loads, on a state with the registers as they were. -/
theorem exec_regsSameBut {i : Instr} {s t : State} (h : exec i s = .next t) : RegsSameBut (destinations i) s t := by
  have frame : .regs ∉ changes i → ∀ r, t.reg r = s.reg r := exec_sameBut h .regs
  cases i
  case ldVK x =>
    obtain ⟨-, -, rfl⟩ | ⟨k, -, -, rfl⟩ | ⟨k, -, -, rfl⟩ | ⟨k, o, -, -, rfl⟩ := exec_ldVK_cases h
    · exact fun _ _ => rfl
    · exact fun _ _ => rfl
    · exact regsSameBut_setReg s x _
    · exact fun _ _ => rfl
  case ldVB x _ | addVB x _ | ldVV x _ | rnd x _ | ldVDT x =>
    injection h with h; subst h; exact regsSameBut_setReg s x _
  case drw => injection h with h; subst h; exact regsSameBut_setReg s vf _
  case or x _ | and x _ | xor x _ | addVV x _ | sub x _ | shr x | subn x _ | shl x =>
    injection h with h; subst h; exact regsSameBut_setRegFlag s x _ _
  case ldVM x => injection h with h; subst h; exact regsSameBut_loadRegs s x
  all_goals exact fun r _ => frame (by simp [changes]) r

/-! ### The flag -/

theorem flagByte_zero_or_one (b : Bool) : flagByte b = 0x00 ∨ flagByte b = 0x01 := by cases b <;> simp [flagByte]

/-- VF is the last register a flag writer writes, and what it writes is a flag, X = F included (R112, R127). -/
theorem exec_reg_vf_of_writesFlag {i : Instr} {s t : State} (hw : writesFlag i = true) (h : exec i s = .next t) :
    ∃ b, t.reg vf = flagByte b := by
  cases i
  case or | and | xor | addVV | sub | shr | subn | shl =>
    injection h with h; subst h
    exact ⟨_, (reg_setRegFlag ..).trans (if_pos rfl)⟩
  case drw =>
    injection h with h; subst h
    exact ⟨_, (reg_setReg ..).trans (if_pos rfl)⟩
  all_goals cases hw

/-! ### The call stack, last-in first-out (R36) -/

section
variable (s : State) (a : Addr)

theorem push_sp_ne_zero (h : s.sp.val < 16) : (s.push a).sp ≠ 0 :=
  Fin.ne_of_val_ne (by rw [push_sp_val s a h]; exact Nat.succ_ne_zero _)

theorem topEntry_push (h : s.sp.val < 16) : (s.push a).topEntry = a := by
  rw [State.topEntry, push_sp_val s a h, Nat.add_sub_cancel, stackEntry_push s a _ h, if_pos rfl]

theorem pop_push_sp : (s.push a).pop.sp = s.sp := by rw [pop_sp, push_sp, add_sub_cancel_right]

end

/-! ### No instruction reads ST (R35) -/

theorem foldl_setReg_setSound (n : Byte) (f : Reg → Byte) (ks : List Reg) (t : State) :
    ks.foldl (fun u k => u.setReg k (f k)) (t.setSound n) = (ks.foldl (fun u k => u.setReg k (f k)) t).setSound n := by
  induction ks generalizing t with
  | nil => rfl
  | cons k ks ih => exact ih (t.setReg k (f k))

theorem loadRegs_setSound (s : State) (n : Byte) (x : Reg) : (s.setSound n).loadRegs x = (s.loadRegs x).setSound n :=
  foldl_setReg_setSound n (fun k => s.readByte (s.atI k.val)) _ s

/-- With another value in ST an instruction takes the same branch, since no branch looks at ST, and does the same; ST
keeps the other value, but for LD ST, Vx, which overwrites it. -/
theorem exec_setSound {i : Instr} {s t : State} (n : Byte) (h : exec i s = .next t) :
    ∃ m, exec i (s.setSound n) = .next (t.setSound m) := by
  cases i
  case ldSTV x => injection h with h; subst h; exact ⟨s.reg x, rfl⟩
  all_goals refine ⟨n, ?_⟩
  case ret =>
    obtain ⟨h0, rfl⟩ | ⟨h0, rfl⟩ := exec_ret_cases h
    · exact exec_ret_of_empty _ h0
    · exact exec_ret_of_nonempty _ h0
  case call =>
    obtain ⟨h0, rfl⟩ | ⟨h0, rfl⟩ := exec_call_cases h
    · exact exec_call_of_full _ _ h0
    · exact exec_call_of_room _ _ h0
  case skp x =>
    obtain ⟨h0, rfl⟩ | ⟨k, h0, rfl⟩ := exec_skp_cases h
    · exact exec_skp_of_large _ x h0
    · exact exec_skp_of_key _ x k h0
  case sknp x =>
    obtain ⟨h0, rfl⟩ | ⟨k, h0, rfl⟩ := exec_sknp_cases h
    · exact exec_sknp_of_large _ x h0
    · exact exec_sknp_of_key _ x k h0
  case ldVK x =>
    obtain ⟨hl, ho, rfl⟩ | ⟨k, hl, ho, rfl⟩ | ⟨k, hl, ho, rfl⟩ | ⟨k, o, hl, ho, rfl⟩ := exec_ldVK_cases h
    · exact exec_ldVK_idle (s.setSound n) x hl ho
    · exact exec_ldVK_press (s.setSound n) x k hl ho
    · exact exec_ldVK_release (s.setSound n) x k hl ho
    · exact exec_ldVK_down (s.setSound n) x k o hl ho
  case ldVM x =>
    injection h with h; subst h
    exact congrArg (fun u : State => Host.Outcome.next u.fall) (loadRegs_setSound s n x)
  all_goals (injection h with h; subst h; rfl)

/-! ### Reset (R43, R46 to R48, R171, R174) -/

theorem reset_canonical : State.reset.Canonical := ⟨by decide, reset_mem_wf, Screen.wf_blank _⟩

theorem reset_reportPrecise : State.reset.ReportPrecise := fun _ _ _ h => nomatch h

theorem reset_onSchedule : State.reset.OnSchedule := fun _ => rfl

theorem reset_ready : State.reset.Ready := ⟨by decide, rfl, rfl⟩

end Sys2Proof.Machine

open Sys2Proof Sys2Proof.Machine

/-- Settles O54: the frame of an instruction, case by case over the instructions. -/
theorem instructionsChangeOnlyTheirParts : Obligations.InstructionsChangeOnlyTheirParts :=
  fun _ _ _ => exec_sameBut

/-- Settles O52: the registers an instruction leaves alone, from its frame or from the register writes it ends in. -/
theorem onlyDestinationsAreWritten : Obligations.OnlyDestinationsAreWritten :=
  fun _ _ _ => exec_regsSameBut

/-- Settles O53: VF holds a flag after a flag writer, and a flag is 0 or 1. -/
theorem flagWritesAreZeroOrOne : Obligations.FlagWritesAreZeroOrOne := by
  intro i s t hw h
  obtain ⟨b, hb⟩ := exec_reg_vf_of_writesFlag hw h
  exact hb ▸ flagByte_zero_or_one b

/-- Settles O57: the run from the state with the other ST ends in the same state but for ST. -/
theorem soundTimerIsNeverRead : Obligations.SoundTimerIsNeverRead := by
  intro i s t n h
  obtain ⟨m, hm⟩ := exec_setSound n h
  exact ⟨_, hm, (SameBut.refl t).setSound m⟩

/-- Settles O15: the CALL pushes the return address, so RET finds the stack not empty and that address on top; a pop
after a push leaves the depth, and the push wrote only above it. -/
theorem returnUndoesCall : Obligations.ReturnUndoesCall := by
  intro nnn s hroom
  have hne := push_sp_ne_zero s (s.pc + 2) hroom
  have htop := topEntry_push s (s.pc + 2) hroom
  have hheld : ∀ j < s.sp.val, (s.push (s.pc + 2)).stackEntry j = s.stackEntry j := fun j hj => by
    rw [stackEntry_push s _ j hroom, if_neg hj.ne]
  have hframe := (((SameBut.refl s).push (s.pc + 2)).goto nnn).pop.goto (s.push (s.pc + 2)).topEntry
  refine ⟨_, _, exec_call_of_room s nnn hroom, exec_ret_of_nonempty _ hne, ?_, pop_push_sp s (s.pc + 2), hheld,
    hframe.mono (by simp)⟩
  exact (congrArg BitVec.toNat htop).trans (BitVec.toNat_add ..)

/-- Settles O11: the values by computation, the invariants each by their own lemma. -/
theorem resetValuesAndInvariants : Obligations.ResetValuesAndInvariants :=
  ⟨rfl, rfl, rfl, rfl, rfl, rfl, rfl, reset_canonical, reset_reportPrecise, reset_onSchedule, reset_ready⟩
end

section
/-! PROOF. The memory unit at work (R50 to R71): a word write read back (R53, R54), the program loader (R65 to R67), a
store seen by the next fetch (R71, R185), and the canonical form of memory and pixels through every step (R183). -/

namespace Sys2Proof.Machine

/-! ### The canonical form (R50, R171, R183) -/

section
variable {i : Instr} {s t : State}

/-- Memory changes by stores at I or not at all (R63, R68), so it changes by byte writes only. -/
theorem exec_mem_cases (h : exec i s = .next t) : t.mem = s.mem ∨ ∃ bs, t.mem = s.mem.writeList s.i bs := by
  cases i
  case ldBV x | ldMV x =>
    injection h with h; subst h
    exact .inr ⟨_, storeAtI_mem s _⟩
  all_goals left
  case ret => obtain ⟨-, rfl⟩ | ⟨-, rfl⟩ := exec_ret_cases h <;> rfl
  case call => obtain ⟨-, rfl⟩ | ⟨-, rfl⟩ := exec_call_cases h <;> rfl
  case skp => obtain ⟨-, rfl⟩ | ⟨k, -, rfl⟩ := exec_skp_cases h <;> rfl
  case sknp => obtain ⟨-, rfl⟩ | ⟨k, -, rfl⟩ := exec_sknp_cases h <;> rfl
  case ldVK =>
    obtain ⟨-, -, rfl⟩ | ⟨k, -, -, rfl⟩ | ⟨k, -, -, rfl⟩ | ⟨k, o, -, -, rfl⟩ := exec_ldVK_cases h <;> rfl
  case ldVM x =>
    injection h with h; subst h
    exact loadRegs_mem s x
  all_goals (injection h with h; subst h; rfl)

theorem exec_mem_wf (h : exec i s = .next t) (hm : s.mem.wf) : t.mem.wf := by
  obtain e | ⟨bs, e⟩ := exec_mem_cases h
  · exact e ▸ hm
  · exact e ▸ Memory.wf_writeList bs s.mem s.i hm

/-! What CLS and DRW leave of the pixels, by display model (R167, R171, R172). -/

theorem displayBlank_screen_oracle (h : s.params.display = .oracle) : s.displayBlank.screen = s.screen := by
  simp [State.displayBlank, h]

theorem displayBlank_screen_framebuffer {w h : Nat} {e : Edge} (hd : s.params.display = .framebuffer w h e) :
    s.displayBlank.screen = [] := by
  simp [State.displayBlank, hd]

theorem drawScreen_oracle (h : s.params.display = .oracle) (x y : Byte) (rows : List Byte) :
    s.drawScreen x y rows = s.screen := by
  simp [State.drawScreen, h]

theorem drawScreen_framebuffer {w h : Nat} {e : Edge} (hd : s.params.display = .framebuffer w h e) (x y : Byte)
    (rows : List Byte) : s.drawScreen x y rows = (drawSprite w h e x y rows s.screen).2 := by
  simp [State.drawScreen, hd]

theorem displayBlank_screen_wf (hs : Screen.wf s.params.display s.screen = true) :
    Screen.wf s.params.display s.displayBlank.screen = true := by
  cases hd : s.params.display with
  | oracle => rwa [displayBlank_screen_oracle hd, ← hd]
  | framebuffer w h e => rw [displayBlank_screen_framebuffer hd]; exact Screen.wf_blank _

/-- A framebuffer's draw needs the display to have a pixel, which well-formed parameters give (R171). -/
theorem drawScreen_wf (hp : wellFormedParams s.params = true) (hs : Screen.wf s.params.display s.screen = true)
    (x y : Byte) (rows : List Byte) : Screen.wf s.params.display (s.drawScreen x y rows) = true := by
  cases hd : s.params.display with
  | oracle => rwa [drawScreen_oracle hd, ← hd]
  | framebuffer w h e =>
    obtain ⟨-, hw, hh⟩ : 1 ≤ s.params.fHz ∧ 1 ≤ w ∧ 1 ≤ h := by simpa [wellFormedParams, hd] using hp
    rw [drawScreen_framebuffer hd]
    exact drawSprite_wf hw hh e x y rows s.screen (hd ▸ hs)

/-- CLS and DRW alone write the pixels (R167, R171); the frame of every other instruction leaves them. -/
theorem exec_screen_wf (h : exec i s = .next t) (hp : wellFormedParams s.params = true)
    (hs : Screen.wf s.params.display s.screen = true) : Screen.wf s.params.display t.screen = true := by
  have frame : .screen ∉ changes i → t.screen = s.screen := exec_sameBut h .screen
  cases i
  case cls => injection h with h; subst h; exact displayBlank_screen_wf hs
  case drw => injection h with h; subst h; exact drawScreen_wf hp hs _ _ _
  all_goals exact frame (by simp [changes]) ▸ hs

theorem exec_params (h : exec i s = .next t) : t.params = s.params :=
  exec_sameBut h .params (by cases i <;> simp [changes])

/-- The canonical form speaks of the parameters, memory and pixels only. -/
theorem State.Canonical.congr (hc : s.Canonical) (hp : t.params = s.params) (hm : t.mem = s.mem)
    (hs : t.screen = s.screen) : t.Canonical := by
  unfold State.Canonical
  rwa [hp, hm, hs]

theorem exec_canonical (h : exec i s = .next t) (hc : s.Canonical) : t.Canonical := by
  obtain ⟨hp, hm, hs⟩ := hc
  have e := exec_params h
  exact ⟨e ▸ hp, exec_mem_wf h hm, e ▸ exec_screen_wf h hp hs⟩

theorem beginWakeup_canonical (hc : s.Canonical) : s.beginWakeup.Canonical :=
  hc.congr (beginWakeup_params s) (beginWakeup_mem s) (beginWakeup_screen s)

end

/-! ### A word write (R53, R54) -/

/-- The address k past a, computed modulo 4096 (R51). -/
theorem ofNat_add_mod_memSize (a : Addr) (k : Nat) : BitVec.ofNat 12 ((a.toNat + k) % 4096) = a + BitVec.ofNat 12 k :=
  BitVec.eq_of_toNat_eq (by simp [BitVec.toNat_add])

theorem Addr.ne_add_one (a : Addr) : a ≠ a + 1 := by bv_omega

/-- A read after a word write: the low byte one past the address, the high byte at it, nothing else (R54). -/
theorem Memory.read_write16 (m : Memory) (a : Addr) (w : Word) (c : Addr) :
    (m.write16 a w).read c =
      if c = a + 1 then w.extractLsb' 0 8 else if c = a then w.extractLsb' 8 8 else m.read c := by
  rw [Memory.write16, Memory.read_write, Memory.read_write]

theorem highByte_toNat (w : Word) : (w.extractLsb' 8 8).toNat = w.toNat / 256 := by
  have := w.isLt
  simp [Nat.shiftRight_eq_div_pow]
  omega

theorem lowByte_toNat (w : Word) : (w.extractLsb' 0 8).toNat = w.toNat % 256 := by simp

theorem highByte_append_lowByte (w : Word) : w.extractLsb' 8 8 ++ w.extractLsb' 0 8 = w := by
  apply BitVec.eq_of_toNat_eq
  rw [append_toNat, highByte_toNat, lowByte_toNat]
  exact Nat.div_add_mod' w.toNat 256

/-! ### A store over the next instruction (R71, R185) -/

/-- Each byte of the word fetched after a run of stores and `fall` is what the run left there. -/
theorem fetchSeesStore_storeAtI_fall (s : State) (bs : List Byte) (hlen : bs.length ≤ 4096) (f : Nat → Nat)
    (hf : ∀ (k : Nat) (h : k < bs.length), bs[k].toNat = f k) :
    FetchSeesStore s (s.storeAtI bs).fall bs.length f := by
  have bytes := byteAfterStore_storeAtI s bs hlen f hf
  obtain ⟨hhi, hlo⟩ := fetchWord_bytes (s.storeAtI bs).fall
  unfold FetchSeesStore
  rw [hhi, hlo]
  exact ⟨bytes (s.storeAtI bs).fall.pc, BitVec.toNat_add (s.storeAtI bs).fall.pc 1 ▸ bytes _⟩

/-- Byte k of V0 to VX is V[k] (R139). -/
theorem regsUpTo_getElem_toNat (s : State) (x : Reg) (k : Nat) (h : k < (s.regsUpTo x).length) :
    (s.regsUpTo x)[k].toNat = (s.reg (Fin.ofNat 16 k)).toNat := by
  have hk : k ≤ x.val := by simpa [Nat.lt_succ_iff] using h
  have hr : (Fin.ofNat 16 k).val = k := Nat.mod_eq_of_lt (by omega)
  have := regsUpTo_getElem s x (Fin.ofNat 16 k) (Fin.le_def.mpr (by omega))
  simp only [hr] at this
  rw [this]

/-- Digit k of a byte, hundreds first (R138). -/
theorem bcdDigits_getElem_toNat (v : Byte) (k : Nat) (h : k < (bcdDigits v).length) :
    (bcdDigits v)[k].toNat = v.toNat / 10 ^ (2 - k) % 10 := by
  have := v.isLt
  match k, h with
  | 0, _ | 1, _ | 2, _ => simp [bcdDigits]; omega

end Sys2Proof.Machine

open Sys2Proof Sys2Proof.Machine

/-- Settles O58: a halted or cancelled CORE and the report of an undefined word leave memory, pixels and parameters as
they are, and so does the start of a wakeup; the instruction after it keeps each of the three. -/
theorem stepKeepsCanonicalForm : Obligations.StepKeepsCanonicalForm := by
  intro s t hc h
  have hb := beginWakeup_canonical hc
  have hbp := beginWakeup_params s
  obtain ⟨-, ⟨_, -, rfl⟩ | ⟨-, -, rfl⟩ | ⟨-, -, -, rfl⟩ | ⟨-, -, i, -, he⟩⟩ := step_cases h
  · exact ⟨hc, rfl⟩
  · exact ⟨hc, rfl⟩
  · exact ⟨hb, hbp⟩
  · exact ⟨exec_canonical he hb, (exec_params he).trans hbp⟩

/-- Settles O7: the two addresses of a word differ, at 0xFFF too, so the two byte writes do not meet. -/
theorem wordWriteThenReadRoundTrips : Obligations.WordWriteThenReadRoundTrips := by
  intro m a w
  have hhi : (m.write16 a w).read a = w.extractLsb' 8 8 := by
    rw [Memory.read_write16, if_neg (Addr.ne_add_one a), if_pos rfl]
  have hlo : (m.write16 a w).read (a + 1) = w.extractLsb' 0 8 := by rw [Memory.read_write16, if_pos rfl]
  have hnext : BitVec.ofNat 12 ((a.toNat + 1) % 4096) = a + 1 := ofNat_add_mod_memSize a 1
  refine ⟨?_, ?_, ?_, fun c hca hcn => ?_⟩
  · rw [Memory.read16, hhi, hlo, highByte_append_lowByte]
  · rw [hhi, highByte_toNat]
  · rw [hnext, hlo, lowByte_toNat]
  · have hc1 : c ≠ a + 1 := fun e => hcn (e ▸ BitVec.toNat_add a 1)
    rw [Memory.read_write16, if_neg hc1, if_neg hca]

/-- Settles O8: an image of at most 3584 bytes does not wrap round, so its k-th address is 0x200 + k; a larger one fails
the length check, which comes before any write. -/
theorem loaderCopiesTheImage : Obligations.LoaderCopiesTheImage := by
  intro m bytes
  have haddr (k : Nat) : Config.progBase + BitVec.ofNat 12 k = BitVec.ofNat 12 (0x200 + k) := (BitVec.ofNat_add _ _).symm
  refine ⟨fun hlen => ⟨m.writeList Config.progBase bytes, if_pos (decide_eq_true hlen), fun k hk => ?_,
    fun a ha => ?_⟩, fun hlen => if_neg (mt of_decide_eq_true hlen.not_ge)⟩
  · rw [← haddr k]
    exact Memory.read_writeList_inside bytes m _ (by omega) k hk
  · refine Memory.read_writeList_outside bytes m _ a fun k hk e => ?_
    have : a.toNat = 0x200 + k := by
      rw [e, haddr, BitVec.toNat_ofNat, Nat.mod_eq_of_lt (by omega)]
    omega

/-- Settles O40: both instructions end in a run of stores at I and `fall`, of V0 to VX or of the three digits. -/
theorem storeIsSeenByNextFetch : Obligations.StoreIsSeenByNextFetch := by
  intro x s
  have regs := fetchSeesStore_storeAtI_fall s (s.regsUpTo x) (by rw [regsUpTo_length]; omega) _
    (regsUpTo_getElem_toNat s x)
  rw [regsUpTo_length] at regs
  have digits := fetchSeesStore_storeAtI_fall s (bcdDigits (s.reg x)) (by simp [bcdDigits]) _
    (bcdDigits_getElem_toNat (s.reg x))
  exact ⟨⟨_, rfl, BitVec.toNat_add s.pc 2, regs⟩, ⟨_, rfl, BitVec.toNat_add s.pc 2, digits⟩⟩
end

section
/-! PROOF. The encoding (R72 to R94): decode and encode agree, what decode refuses, and the opcode map; then the fetch
(R74) and the wakeup around it (R89, R92, R160). -/

namespace Sys2Proof

section
variable {w : Word} {i : Instr}

/-! ### Families 8, E and F select further (R79, R83 to R85) -/

theorem decode_family8 (h : fieldF w = 0x8) : decode w = decodeFamily8 w := by rw [decode, h]; rfl
theorem decode_familyE (h : fieldF w = 0xE) : decode w = decodeFamilyE w := by rw [decode, h]; rfl
theorem decode_familyF (h : fieldF w = 0xF) : decode w = decodeFamilyF w := by rw [decode, h]; rfl

/-! ### Decode after encode -/

/-- The family selects the handler, the handler's field is the one the format wrote, and the operands are the fields
the format gives back. -/
theorem decode_encode (i : Instr) : decode (encode i) = some i := by
  cases i
  case cls | ret => rfl
  case ldVV | or | and | xor | addVV | sub | shr | subn | shl =>
    rw [encode, decode_family8 (fieldF_encodeRegReg ..)]
    simp [decodeFamily8]
  case skp | sknp =>
    rw [encode, decode_familyE (fieldF_encodeRegByte ..)]
    simp [decodeFamilyE]
  case ldVDT | ldVK | ldDTV | ldSTV | addIV | ldFV | ldBV | ldMV | ldVM =>
    rw [encode, decode_familyF (fieldF_encodeRegByte ..)]
    simp [decodeFamilyF]
  all_goals simp [encode, decode]

/-! ### A word put together again from its fields (R75, R77)

The family and the selecting field are given as numbers, as the decoder's matches leave them. -/

section
variable {f : BitVec 4} (hf : (fieldF w).toNat = f.toNat)
include hf

theorem encodeAddr_of_fields {nnn : Addr} (hn : (fieldNNN w).toNat = nnn.toNat) : encodeAddr f nnn = w := by
  apply BitVec.eq_of_toNat_eq
  rw [encodeAddr_toNat, ← hf, fieldF_toNat, ← hn, fieldNNN_toNat]
  omega

theorem encodeRegByte_of_fields {kk : Byte} (hk : (fieldKK w).toNat = kk.toNat) :
    encodeRegByte f (fieldX w) kk = w := by
  apply BitVec.eq_of_toNat_eq
  rw [encodeRegByte_toNat, ← hf, fieldF_toNat, fieldX_val, ← hk, fieldKK_toNat]
  omega

theorem encodeRegReg_of_fields {n : Fin 16} (hn : (fieldN w).val = n.val) :
    encodeRegReg f (fieldX w) (fieldY w) n = w := by
  apply BitVec.eq_of_toNat_eq
  rw [encodeRegReg_toNat, ← hf, fieldF_toNat, fieldX_val, fieldY_val, ← hn, fieldN_val]
  omega

end

/-! The same with a field cleared: the low nibble of families 5 and 9 (R82), the Y nibble of the shifts (R83). -/

theorem encodeRegReg_clear_n (f : BitVec 4) (x y n : Fin 16) :
    encodeRegReg f x y n &&& ~~~0x000F = encodeRegReg f x y 0 := by
  apply BitVec.eq_of_getLsbD_eq
  intro k hk
  simp only [encodeRegReg, BitVec.getLsbD_and, BitVec.getLsbD_append]
  interval_cases k <;> simp [nibble]

theorem encodeRegReg_clear_y (f : BitVec 4) (x y n : Fin 16) :
    encodeRegReg f x y n &&& ~~~0x00F0 = encodeRegReg f x 0 n := by
  apply BitVec.eq_of_getLsbD_eq
  intro k hk
  simp only [encodeRegReg, BitVec.getLsbD_and, BitVec.getLsbD_append]
  interval_cases k <;> simp [nibble]

theorem encodeRegReg_of_fields_clear_n {f : BitVec 4} (hf : (fieldF w).toNat = f.toNat) :
    encodeRegReg f (fieldX w) (fieldY w) 0 = w &&& ~~~0x000F := by
  rw [← encodeRegReg_clear_n f _ _ (fieldN w), encodeRegReg_of_fields hf rfl]

theorem encodeRegReg_of_fields_clear_y {f : BitVec 4} {n : Fin 16} (hf : (fieldF w).toNat = f.toNat)
    (hn : (fieldN w).val = n.val) : encodeRegReg f (fieldX w) 0 n = w &&& ~~~0x00F0 := by
  rw [← encodeRegReg_clear_y f _ (fieldY w), encodeRegReg_of_fields hf hn]

theorem encode_eq_of_ignoredBits_eq_zero (he : encode i = w) (h0 : ignoredBits i = 0) :
    encode i = w &&& ~~~ignoredBits i := by
  rw [he, h0]
  exact BitVec.and_allOnes.symm

/-! ### Encode after decode (R77, R82, R83), handler by handler -/

theorem encode_of_decodeFamily0 (hf : (fieldF w).toNat = 0x0) (h : decodeFamily0 w = some i) :
    encode i = w &&& ~~~ignoredBits i := by
  unfold decodeFamily0 at h
  split at h
  case h_1 hn =>
    cases h
    exact encode_eq_of_ignoredBits_eq_zero (encodeAddr_of_fields (f := 0) (nnn := 0x0E0) hf hn) rfl
  case h_2 hn =>
    cases h
    exact encode_eq_of_ignoredBits_eq_zero (encodeAddr_of_fields (f := 0) (nnn := 0x0EE) hf hn) rfl
  case h_3 => cases h

theorem encode_of_decodeFamily8 (hf : (fieldF w).toNat = 0x8) (h : decodeFamily8 w = some i) :
    encode i = w &&& ~~~ignoredBits i := by
  unfold decodeFamily8 at h
  split at h
  case h_7 hn => cases h; exact encodeRegReg_of_fields_clear_y hf hn
  case h_9 hn => cases h; exact encodeRegReg_of_fields_clear_y hf hn
  case h_10 => cases h
  all_goals
    rename_i hn; cases h
    exact encode_eq_of_ignoredBits_eq_zero (encodeRegReg_of_fields hf hn) rfl

theorem encode_of_decodeFamilyE (hf : (fieldF w).toNat = 0xE) (h : decodeFamilyE w = some i) :
    encode i = w &&& ~~~ignoredBits i := by
  unfold decodeFamilyE at h
  split at h
  case h_3 => cases h
  all_goals
    rename_i hk; cases h
    exact encode_eq_of_ignoredBits_eq_zero (encodeRegByte_of_fields hf hk) rfl

theorem encode_of_decodeFamilyF (hf : (fieldF w).toNat = 0xF) (h : decodeFamilyF w = some i) :
    encode i = w &&& ~~~ignoredBits i := by
  unfold decodeFamilyF at h
  split at h
  case h_10 => cases h
  all_goals
    rename_i hk; cases h
    exact encode_eq_of_ignoredBits_eq_zero (encodeRegByte_of_fields hf hk) rfl

/-- Family by family: SE and SNE of two registers clear their low nibble, a shift its Y nibble, and every other word
is put together again whole. -/
theorem encode_of_decode (h : decode w = some i) : encode i = w &&& ~~~ignoredBits i := by
  unfold decode at h
  split at h
  case h_1 hf => exact encode_of_decodeFamily0 hf h
  case h_6 hf => cases h; exact encodeRegReg_of_fields_clear_n hf
  case h_9 hf => exact encode_of_decodeFamily8 hf h
  case h_10 hf => cases h; exact encodeRegReg_of_fields_clear_n hf
  case h_14 hf => cases h; exact encode_eq_of_ignoredBits_eq_zero (encodeRegReg_of_fields hf rfl) rfl
  case h_15 hf => exact encode_of_decodeFamilyE hf h
  case h_16 =>
    have hf : (fieldF w).toNat = 0xF := by
      have := (fieldF w).isLt
      simp only [imp_false] at *
      omega
    exact encode_of_decodeFamilyF hf h
  case h_2 | h_3 | h_11 | h_12 =>
    rename_i hf; cases h
    exact encode_eq_of_ignoredBits_eq_zero (encodeAddr_of_fields hf rfl) rfl
  all_goals
    rename_i hf; cases h
    exact encode_eq_of_ignoredBits_eq_zero (encodeRegByte_of_fields hf rfl) rfl

end

/-! ### What decode refuses (R80, R83 to R86) -/

section
variable (w : Word)

theorem decodeFamily0_eq_none_iff :
    decodeFamily0 w = none ↔ (fieldNNN w).toNat ≠ 0x0E0 ∧ (fieldNNN w).toNat ≠ 0x0EE := by
  unfold decodeFamily0
  split <;> simp_all

theorem decodeFamily8_eq_none_iff :
    decodeFamily8 w = none ↔ (fieldN w).val ∈ [0x8, 0x9, 0xA, 0xB, 0xC, 0xD, 0xF] := by
  unfold decodeFamily8
  split
  case h_10 => simp only [imp_false] at *; simp; omega
  all_goals (rename_i hn; simp [hn])

theorem decodeFamilyE_eq_none_iff : decodeFamilyE w = none ↔ (fieldKK w).toNat ∉ [0x9E, 0xA1] := by
  unfold decodeFamilyE
  split <;> simp_all

theorem decodeFamilyF_eq_none_iff :
    decodeFamilyF w = none ↔ (fieldKK w).toNat ∉ [0x07, 0x0A, 0x15, 0x18, 0x1E, 0x29, 0x33, 0x55, 0x65] := by
  unfold decodeFamilyF
  split <;> simp_all

/-- Family by family: the four that select further refuse the digits R86 lists, the other twelve refuse nothing. -/
theorem decode_eq_none_iff : decode w = none ↔ undefinedWord w = true := by
  unfold decode
  split
  case h_1 hf =>
    have hlow : w.toNat % 4096 = w.toNat := by rw [fieldF_toNat] at hf; omega
    simp [decodeFamily0_eq_none_iff, fieldNNN_toNat, hlow, undefinedWord, ← fieldF_toNat, hf]
  case h_9 hf => simp [decodeFamily8_eq_none_iff, fieldN_val, undefinedWord, ← fieldF_toNat, hf]
  case h_15 hf => simp [decodeFamilyE_eq_none_iff, fieldKK_toNat, undefinedWord, ← fieldF_toNat, hf]
  case h_16 =>
    have hf : (fieldF w).toNat = 0xF := by
      have := (fieldF w).isLt
      simp only [imp_false] at *
      omega
    simp [decodeFamilyF_eq_none_iff, fieldKK_toNat, undefinedWord, ← fieldF_toNat, hf]
  all_goals (rename_i hf; simp [undefinedWord, ← fieldF_toNat, hf])

end

/-! ### The opcode map (R88, R93)

A row covers a word iff the word decodes to an instruction of that row. A row's mask holds none of the bits its
instruction ignores, so a word that decodes lies in its instruction's row; and decode selects by the bits under the
mask, so a word in a row decodes to an instruction of that row. -/

/-- The bits of its word that are the same in every word of an instruction: no operand, not ignored (R77). -/
def Instr.fixedBits : Instr → Word
  | .cls | .ret => 0xFFFF
  | .ldVV _ _ | .or _ _ | .and _ _ | .xor _ _ | .addVV _ _ | .sub _ _ | .shr _ | .subn _ _ | .shl _ => 0xF00F
  | .skp _ | .sknp _ | .ldVDT _ | .ldVK _ | .ldDTV _ | .ldSTV _ | .addIV _ | .ldFV _ | .ldBV _ | .ldMV _ | .ldVM _ =>
    0xF0FF
  | _ => 0xF000

/-- The row of an instruction; that it is one of the opcode map's is `row_mem_opcodeTable`. -/
def Instr.row (i : Instr) : OpcodeRow := ⟨i.mnemonic, encode i &&& i.fixedBits, i.fixedBits⟩

theorem Instr.row_mem_opcodeTable (i : Instr) : i.row ∈ opcodeTable := by
  cases i
  case cls | ret => decide
  all_goals
    simp only [Instr.row, Instr.mnemonic, encode, Instr.fixedBits, encodeAddr_family, encodeRegByte_family,
      encodeRegByte_lowByte, encodeRegReg_family, encodeRegReg_lowNibble]
    decide

theorem decode_pattern_row : ∀ r ∈ opcodeTable, (decode r.pattern).map Instr.row = some r := by decide

theorem opcodeTable_mnemonics_nodup : (opcodeTable.map (·.mnemonic)).Nodup := by decide

theorem Instr.row_eq_of_mnemonic_eq {i j : Instr} (h : i.mnemonic = j.mnemonic) : i.row = j.row :=
  List.inj_on_of_nodup_map opcodeTable_mnemonics_nodup i.row_mem_opcodeTable j.row_mem_opcodeTable h

theorem not_ignoredBits_and_fixedBits (i : Instr) : ~~~ignoredBits i &&& i.fixedBits = i.fixedBits := by
  cases i <;> (simp only [ignoredBits, Instr.fixedBits]; decide)

theorem fieldF_fixedBits (i : Instr) : fieldF i.fixedBits = 0xF := by
  cases i <;> (simp only [Instr.fixedBits]; decide)

/-! Words that agree under a mask agree in each field the mask holds whole. -/

section
variable {w v : Word} {i : Instr}

theorem extractLsb'_eq_of_and_eq {m : Word} (start len : Nat) (hm : m.extractLsb' start len = BitVec.allOnes len)
    (h : w &&& m = v &&& m) : w.extractLsb' start len = v.extractLsb' start len := by
  have := congrArg (BitVec.extractLsb' start len) h
  rwa [BitVec.extractLsb'_and, BitVec.extractLsb'_and, hm, BitVec.and_allOnes, BitVec.and_allOnes] at this

theorem fieldF_eq_of_and_fixedBits_eq (h : w &&& i.fixedBits = v &&& i.fixedBits) : fieldF w = fieldF v :=
  extractLsb'_eq_of_and_eq 12 4 (fieldF_fixedBits i) h

theorem fieldN_eq_of_and_eq (h : w &&& 0xF00F = v &&& 0xF00F) : fieldN w = fieldN v :=
  congrArg BitVec.toFin (extractLsb'_eq_of_and_eq 0 4 (by decide) h)

theorem fieldKK_eq_of_and_eq (h : w &&& 0xF0FF = v &&& 0xF0FF) : fieldKK w = fieldKK v :=
  extractLsb'_eq_of_and_eq 0 8 (by decide) h

/-- A word with an instruction's fixed bits has the fields decode selects that instruction by. -/
theorem decode_mnemonic_of_fixedBits (h : w &&& i.fixedBits = encode i &&& i.fixedBits) :
    (decode w).map Instr.mnemonic = some i.mnemonic := by
  have hf := fieldF_eq_of_and_fixedBits_eq h
  cases i
  case cls | ret =>
    obtain rfl := (BitVec.and_allOnes.symm.trans h).trans BitVec.and_allOnes
    rfl
  case ldVV | or | and | xor | addVV | sub | shr | subn | shl =>
    have hn := (fieldN_eq_of_and_eq h).trans (fieldN_encodeRegReg ..)
    rw [decode_family8 (hf.trans (fieldF_encodeRegReg ..))]
    simp [decodeFamily8, hn, Instr.mnemonic]
  case skp | sknp =>
    have hk := (fieldKK_eq_of_and_eq h).trans (fieldKK_encodeRegByte ..)
    rw [decode_familyE (hf.trans (fieldF_encodeRegByte ..))]
    simp [decodeFamilyE, hk, Instr.mnemonic]
  case ldVDT | ldVK | ldDTV | ldSTV | addIV | ldFV | ldBV | ldMV | ldVM =>
    have hk := (fieldKK_eq_of_and_eq h).trans (fieldKK_encodeRegByte ..)
    rw [decode_familyF (hf.trans (fieldF_encodeRegByte ..))]
    simp [decodeFamilyF, hk, Instr.mnemonic]
  all_goals simp [decode, hf, encode, Instr.mnemonic]

end

theorem covers_iff_decode_row {r : OpcodeRow} (hr : r ∈ opcodeTable) (w : Word) :
    r.covers w = true ↔ (decode w).map Instr.row = some r := by
  constructor
  · intro hc
    obtain ⟨i, -, rfl⟩ := Option.map_eq_some_iff.mp (decode_pattern_row r hr)
    obtain ⟨j, hj, hm⟩ := Option.map_eq_some_iff.mp (decode_mnemonic_of_fixedBits (beq_iff_eq.mp hc))
    rw [hj, Option.map_some, Instr.row_eq_of_mnemonic_eq hm]
  · intro hd
    obtain ⟨i, hi, rfl⟩ := Option.map_eq_some_iff.mp hd
    refine beq_iff_eq.mpr ?_
    rw [Instr.row, encode_of_decode hi, BitVec.and_assoc, not_ignoredBits_and_fixedBits]

theorem filter_covers_opcodeTable (w : Word) :
    opcodeTable.filter (fun r => r.covers w) = ((decode w).map Instr.row).toList := by
  have hnodup : opcodeTable.Nodup := opcodeTable_mnemonics_nodup.of_map
  cases hd : decode w with
  | none =>
    refine List.filter_eq_nil_iff.mpr fun r hr hc => ?_
    simpa [hd] using (covers_iff_decode_row hr w).mp hc
  | some i =>
    have hrow : ∀ r ∈ opcodeTable, r.covers w = decide (r = i.row) := fun r hr => by
      rw [Bool.eq_iff_iff, covers_iff_decode_row hr w]
      simp [hd, eq_comm]
    rw [List.filter_congr hrow, List.filter_eq, List.count_eq_one_of_mem hnodup i.row_mem_opcodeTable]
    rfl

/-! ### Words as bytes in memory (R53, R73, R74) -/

theorem decodeBytes_pair (hi lo : Byte) : decodeBytes [hi, lo] = (decode (hi ++ lo)).map (·, []) := rfl

theorem decodeTableWord_eq (n : Nat) : decodeTableWord 16 n = decode (BitVec.ofNat 16 (n % 2 ^ 16)) := by
  rw [decodeTableWord, tableBytes, decodeBytes_pair, Machine.highByte_append_lowByte]
  cases decode _ <;> rfl

namespace Machine
variable {s : State} {i : Instr}

theorem fetchWord_withFetchWord (s : State) (n : Nat) :
    (s.withFetchWord 16 n).fetchWord = BitVec.ofNat 16 (n % 2 ^ 16) :=
  (wordWriteThenReadRoundTrips s.mem s.pc _).1

/-! ### The wakeup (R89, R92, R160) -/

/-- The tick changes neither memory nor PC, so the word fetched after it is the one that stood there before. -/
theorem step_of_decode (hs : s.Ready) (hd : decode s.fetchWord = some i) : step s = exec i s.beginWakeup := by
  rw [step_of_ready s hs, cycle, beginWakeup_fetchWord, hd]

theorem step_of_halted {why : HaltReason} (hp : wellFormedParams s.params = true) (hr : s.run = .halted why) :
    step s = .next s := by
  simp [step, wakeup, hp, hr]

end Machine
end Sys2Proof

open Sys2Proof Sys2Proof.Machine

/-- Settles O2: each format gives back the fields put into it, and the family and the selecting field among them lead
decode to the instruction. -/
theorem decodeOfEncodeIsIdentity : Obligations.DecodeOfEncodeIsIdentity := decode_encode

/-- Settles O3: a word is its own fields put together, but for the field an instruction ignores, which encode clears. -/
theorem encodeOfDecodeClearsIgnoredBits : Obligations.EncodeOfDecodeClearsIgnoredBits := fun _ _ => encode_of_decode

/-- Settles O4: the digits decode refuses are R86's list, family by family. -/
theorem decodeRefusesExactlyUndefinedWords : Obligations.DecodeRefusesExactlyUndefinedWords := decode_eq_none_iff

/-- Settles O5: the rows that cover a word are the row of the instruction it decodes to, and that row bears the
instruction's mnemonic. -/
theorem opcodeMapAgreesWithDecode : Obligations.OpcodeMapAgreesWithDecode := by
  intro w
  rw [filter_covers_opcodeTable]
  cases decode w <;> rfl

/-- Settles O1, by computation. -/
theorem writtenWordsDecode : Obligations.WrittenWordsDecode := by
  unfold Obligations.WrittenWordsDecode
  decide

/-- Settles O6: the fetched word is the concatenation of the two bytes, and 12-bit addresses add modulo 4096. -/
theorem fetchIsBigEndianAndWraps : Obligations.FetchIsBigEndianAndWraps := by
  intro s
  have happend : s.fetchWord.toNat = (s.readByte s.pc).toNat * 256 + (s.readByte (s.pc + 1)).toNat := append_toNat _ _
  have hnext : BitVec.ofNat 12 ((s.pc.toNat + 1) % 4096) = s.pc + 1 := ofNat_add_mod_memSize s.pc 1
  rw [hnext, happend, Nat.mul_comm]

/-- Settles O45: the two bytes at PC are the fetched word, and the step runs what that word decodes to. -/
theorem stepRunsDecodedInstruction : Obligations.StepRunsDecodedInstruction := by
  intro s i hs h
  rw [decodeBytes_pair] at h
  obtain ⟨j, hj, hji⟩ := Option.map_eq_some_iff.mp h
  cases hji
  exact step_of_decode hs hj

/-- Settles O46: the word placed at PC is the word fetched, and placing it leaves a ready state ready. -/
theorem placedWordIsRun : Obligations.PlacedWordIsRun := by
  intro s w i hs _ h
  have hs' : (s.withFetchWord 16 w).Ready := hs
  rw [decodeTableWord_eq, ← fetchWord_withFetchWord s w] at h
  exact step_of_decode hs' h

/-- Settles O49: a wakeup of a halted CORE answers the state it was given. -/
theorem haltedCoreDoesNothing : Obligations.HaltedCoreDoesNothing := fun _ _ => step_of_halted
end

section
/-! PROOF. Control flow and skips (R97 to R105, R125, R167): what each skip test leaves in PC, and the jumps, the two
halves of the call stack with their fatal errors, and CLS, each from the rules of the updates it is made of. -/

namespace Sys2Proof

/-! ### The low nibble of families 5 and 9 is no operand (R82) -/

theorem decode_encodeRegReg_5 (x y z : Fin 16) : decode (encodeRegReg 0x5 x y z) = some (.seVV x y) := by
  simp [decode]

theorem decode_encodeRegReg_9 (x y z : Fin 16) : decode (encodeRegReg 0x9 x y z) = some (.sneVV x y) := by
  simp [decode]

namespace Machine

/-! ### Skips on a comparison of two bytes (R97, R102 to R105) -/

theorem skipIf_pc_toNat (s : State) (c : Bool) :
    (s.skipIf c).pc.toNat = (s.pc.toNat + if c then 4 else 2) % 4096 := by
  cases c
  · exact BitVec.toNat_add s.pc 2
  · exact BitVec.toNat_add s.pc 4

theorem skipIf_beq_pc_toNat (s : State) (a b : Byte) :
    (s.skipIf (a == b)).pc.toNat = (s.pc.toNat + if a.toNat = b.toNat then 4 else 2) % 4096 := by
  simp only [skipIf_pc_toNat, beq_iff_eq, BitVec.toNat_inj]

theorem skipIf_bne_pc_toNat (s : State) (a b : Byte) :
    (s.skipIf (a != b)).pc.toNat = (s.pc.toNat + if a.toNat = b.toNat then 2 else 4) % 4096 := by
  simp only [skipIf_pc_toNat, bne_iff_ne, ne_eq, ite_not, BitVec.toNat_inj]

end Machine
end Sys2Proof

open Sys2Proof Sys2Proof.Machine

/-- Settles O13: RET on a stack that is not empty is a pop and a jump to the entry popped; on an empty one it is the
fatal entry. -/
theorem returnPopsOrUnderflows : Obligations.ReturnPopsOrUnderflows := by
  refine ⟨decode_encode .ret, fun s => ⟨fun hpos => ?_, fun hzero => ?_⟩⟩
  · have hne : s.sp ≠ 0 := Fin.ne_of_val_ne hpos.ne'
    exact ⟨_, exec_ret_of_nonempty s hne, pop_sp_val s hne, goto_pc .., fun _ => rfl, (SameBut.refl s).pop.goto _⟩
  · exact ⟨_, exec_ret_of_empty s (Fin.ext hzero), fatalTaken ..⟩

/-- Settles O14: CALL on a stack with room is a push of the return address, which writes the entry at SP alone, and a
jump; on a full one it is the fatal entry, whose word is the CALL's own. -/
theorem callPushesOrOverflows : Obligations.CallPushesOrOverflows := by
  intro nnn
  have hword : BitVec.ofNat 16 (0x2000 + nnn.toNat) = encode (.call nnn) := ofNat_eq_encodeAddr 0x2 nnn 0x2000 rfl
  rw [hword]
  refine ⟨decode_encode (.call nnn), fun s => ⟨fun hroom => ?_, fun hfull => ?_⟩⟩
  · have hentry := fun j => stackEntry_push s (s.pc + 2) j hroom
    refine ⟨_, exec_call_of_room s nnn hroom, goto_pc .., push_sp_val s (s.pc + 2) hroom, ?_,
      fun j hj => (hentry j).trans (if_neg hj), ((SameBut.refl s).push (s.pc + 2)).goto nnn⟩
    exact (congrArg BitVec.toNat ((hentry s.sp.val).trans (if_pos rfl))).trans (BitVec.toNat_add s.pc 2)
  · exact ⟨_, exec_call_of_full s nnn hfull, fatalTaken ..⟩

/-- Settles O16: both end in a jump, and V0 widened to 12 bits keeps its value, so the offset is added modulo 4096. -/
theorem jumpsGoToTheirTarget : Obligations.JumpsGoToTheirTarget := by
  intro nnn
  have hjp : BitVec.ofNat 16 (0x1000 + nnn.toNat) = encode (.jp nnn) := ofNat_eq_encodeAddr 0x1 nnn 0x1000 rfl
  have hjpV0 : BitVec.ofNat 16 (0xB000 + nnn.toNat) = encode (.jpV0 nnn) := ofNat_eq_encodeAddr 0xB nnn 0xB000 rfl
  rw [hjp, hjpV0]
  refine ⟨decode_encode _, decode_encode _, fun s => ⟨⟨_, rfl, goto_pc .., (SameBut.refl s).goto _⟩,
    ⟨_, rfl, ?_, (SameBut.refl s).goto _⟩⟩⟩
  rw [goto_pc, BitVec.toNat_add, zext12_toNat]

/-- Settles O17: each is a skip on a comparison of the register with the immediate. -/
theorem immediateSkips : Obligations.ImmediateSkips := by
  intro x kk
  have hse : BitVec.ofNat 16 (0x3000 + 0x100 * x.val + kk.toNat) = encode (.seVB x kk) :=
    ofNat_eq_encodeRegByte 0x3 x kk 0x3000 rfl
  have hsne : BitVec.ofNat 16 (0x4000 + 0x100 * x.val + kk.toNat) = encode (.sneVB x kk) :=
    ofNat_eq_encodeRegByte 0x4 x kk 0x4000 rfl
  rw [hse, hsne]
  exact ⟨decode_encode _, decode_encode _, fun s =>
    ⟨⟨_, rfl, (SameBut.refl s).skipIf _, skipIf_beq_pc_toNat ..⟩,
     ⟨_, rfl, (SameBut.refl s).skipIf _, skipIf_bne_pc_toNat ..⟩⟩⟩

/-- Settles O18: the word decodes alike for every low nibble, and each is a skip on a comparison of the two
registers. -/
theorem registerSkips : Obligations.RegisterSkips := by
  intro x y
  refine ⟨fun z => ?_, fun s =>
    ⟨⟨_, rfl, (SameBut.refl s).skipIf _, skipIf_beq_pc_toNat ..⟩,
     ⟨_, rfl, (SameBut.refl s).skipIf _, skipIf_bne_pc_toNat ..⟩⟩⟩
  rw [ofNat_eq_encodeRegReg 0x5 x y z 0x5000 rfl, ofNat_eq_encodeRegReg 0x9 x y z 0x9000 rfl]
  exact ⟨decode_encodeRegReg_5 x y z, decode_encodeRegReg_9 x y z⟩

/-- Settles O12: the blank command empties a framebuffer's list of lit pixels and leaves the oracle display's. -/
theorem clearBlanksTheDisplay : Obligations.ClearBlanksTheDisplay := by
  refine ⟨decode_encode .cls, fun s => ⟨_, rfl, displayBlank_history s, fun w h e hd p => ?_,
    displayBlank_screen_oracle, BitVec.toNat_add s.pc 2, (sameBut_displayBlank s).fall⟩⟩
  rw [fall_screen, displayBlank_screen_framebuffer hd]
  rfl
end

section
/-! PROOF. LD and ADD with an immediate (R108, R109): what one register write followed by `fall` leaves, and the two
instructions, which are that write with KK and with the wrapped sum. -/

namespace Sys2Proof.Machine

/-! ### One register write, then `fall` (R18, R20) -/

/-- The destination takes the byte whichever register it is, VF included (R23: no register is hardwired); nothing but
it and PC changes. -/
theorem setReg_fall_frame (s : State) (x : Reg) (b : Byte) :
    (s.setReg x b).fall.reg x = b ∧ RegsSameBut [x] s (s.setReg x b).fall ∧ FallsThrough s (s.setReg x b).fall ∧
      SameBut [.regs, .pc] s (s.setReg x b).fall :=
  ⟨(reg_setReg ..).trans (if_pos rfl), regsSameBut_setReg s x b, BitVec.toNat_add s.pc 2,
    ((SameBut.refl s).setReg x b).fall.mono (by simp)⟩

end Sys2Proof.Machine

open Sys2Proof Sys2Proof.Machine

/-- Settles O19: LD writes the immediate itself and ADD the byte sum, each by one register write that falls through. -/
theorem loadAndAddImmediate : Obligations.LoadAndAddImmediate := by
  intro x kk
  have hld : BitVec.ofNat 16 (0x6000 + 0x100 * x.val + kk.toNat) = encode (.ldVB x kk) :=
    ofNat_eq_encodeRegByte 0x6 x kk 0x6000 rfl
  have hadd : BitVec.ofNat 16 (0x7000 + 0x100 * x.val + kk.toNat) = encode (.addVB x kk) :=
    ofNat_eq_encodeRegByte 0x7 x kk 0x7000 rfl
  rw [hld, hadd]
  refine ⟨decode_encode _, decode_encode _, fun s => ⟨⟨_, rfl, setReg_fall_frame s x kk⟩, ?_⟩⟩
  obtain ⟨hsum, hframe⟩ := setReg_fall_frame s x (addBytes (s.reg x) kk)
  exact ⟨_, rfl, (congrArg BitVec.toNat hsum).trans (addBytes_toNat ..), hframe⟩
end

section
/-! PROOF. The ALU family (R110 to R123): what a result written with its flag leaves, the flags as numbers, and the nine
instructions, each of which is its result and its flag. -/

namespace Sys2Proof

/-! ### The words of family 8 (R83) -/

theorem decode_aluWord {i : Instr} {x y z : Fin 16} {n : Nat} (hn : n = 0x8000 + z.val)
    (hi : encode i = encodeRegReg 0x8 x y z) :
    decode (BitVec.ofNat 16 (n + 0x100 * x.val + 0x10 * y.val)) = some i := by
  rw [ofNat_eq_encodeAlu 0x8 x y z n hn, ← hi, decode_encode]

/-! The Y nibble of the shifts is no operand. -/

theorem decode_encodeRegReg_shr (x y : Fin 16) : decode (encodeRegReg 0x8 x y 0x6) = some (.shr x) := by
  rw [decode_family8 (fieldF_encodeRegReg ..)]
  simp [decodeFamily8]

theorem decode_encodeRegReg_shl (x y : Fin 16) : decode (encodeRegReg 0x8 x y 0xE) = some (.shl x) := by
  rw [decode_family8 (fieldF_encodeRegReg ..)]
  simp [decodeFamily8]

namespace Machine

/-! ### The flags as numbers (R25, R27) -/

theorem flagByte_carryOut_toNat (a b : Byte) :
    (flagByte (carryOut a b)).toNat = if 255 < a.toNat + b.toNat then 1 else 0 := by
  simp [carryOut]

theorem flagByte_noBorrow_toNat (a b : Byte) :
    (flagByte (noBorrow a b)).toNat = if b.toNat ≤ a.toNat then 1 else 0 := by
  simp [noBorrow]

theorem flagByte_getLsbD_toNat (v : Byte) (k : Nat) : (flagByte (v.getLsbD k)).toNat = v.toNat / 2 ^ k % 2 := by
  have hflag (f : Bool) : (flagByte f).toNat = f.toNat := by cases f <;> rfl
  rw [hflag, BitVec.getLsbD, Nat.toNat_testBit]

theorem flagByte_bitOutRight_toNat (v : Byte) : (flagByte (bitOutRight v)).toNat = v.toNat % 2 :=
  (flagByte_getLsbD_toNat v 0).trans (by rw [pow_zero, Nat.div_one])

/-- Bit 7 is all that a byte holds above its low seven bits. -/
theorem flagByte_bitOutLeft_toNat (v : Byte) : (flagByte (bitOutLeft v)).toNat = v.toNat / 128 :=
  (flagByte_getLsbD_toNat v 7).trans (by omega)

/-! ### Shifts by one -/

theorem ushiftRight_one_toNat (v : Byte) : (v >>> 1).toNat = v.toNat / 2 := by
  rw [BitVec.toNat_ushiftRight, Nat.shiftRight_eq_div_pow, pow_one]

theorem shiftLeft_one_toNat (v : Byte) : (v <<< 1).toNat = v.toNat * 2 % 256 := by
  rw [BitVec.toNat_shiftLeft, Nat.shiftLeft_eq, pow_one]

/-! ### A result with its flag, then `fall` (R112, R20) -/

/-- The flag is written last, so VF holds it whichever register is the destination, and V[X] holds the result unless it
is VF; nothing but the two registers and PC changes. -/
theorem resultAndFlag_of_exec {i : Instr} {x : Reg} {s : State} {b : Byte} {f : Bool} {result flag : Nat}
    (hexec : exec i s = .next (s.setRegFlag x b f).fall) (hresult : b.toNat = result)
    (hflag : (flagByte f).toNat = flag) : ResultAndFlag i x s result flag := by
  refine ⟨_, hexec, fun hx => ?_, ?_, regsSameBut_setRegFlag s x b f, BitVec.toNat_add s.pc 2,
    ((SameBut.refl s).setRegFlag x b f).fall.mono (by simp)⟩
  · rw [fall_reg, reg_setRegFlag, if_neg hx, if_pos rfl, hresult]
  · rw [fall_reg, reg_setRegFlag, if_pos rfl, hflag]

end Machine
end Sys2Proof

open Sys2Proof Sys2Proof.Machine

/-- Settles O21: each writes its bitwise result with the flag clear. -/
theorem bitwiseOperationsClearFlag : Obligations.BitwiseOperationsClearFlag := fun _ _ =>
  ⟨decode_aluWord (z := 0x1) rfl rfl, decode_aluWord (z := 0x2) rfl rfl, decode_aluWord (z := 0x3) rfl rfl,
    fun _ => ⟨resultAndFlag_of_exec rfl (BitVec.toNat_or ..) rfl, resultAndFlag_of_exec rfl (BitVec.toNat_and ..) rfl,
      resultAndFlag_of_exec rfl (BitVec.toNat_xor ..) rfl⟩⟩

/-- Settles O22: the result is the byte sum and the flag the carry out of it. -/
theorem addSetsCarry : Obligations.AddSetsCarry := fun _ _ =>
  ⟨decode_aluWord (z := 0x4) rfl rfl, fun _ =>
    resultAndFlag_of_exec rfl (addBytes_toNat ..) (flagByte_carryOut_toNat ..)⟩

/-- Settles O23: the result is the byte difference and the flag its no-borrow bit, SUBN with the operands exchanged. -/
theorem subtractionsSetNoBorrow : Obligations.SubtractionsSetNoBorrow := fun _ _ =>
  ⟨decode_aluWord (z := 0x5) rfl rfl, decode_aluWord (z := 0x7) rfl rfl, fun _ =>
    ⟨resultAndFlag_of_exec rfl (subBytes_toNat ..) (flagByte_noBorrow_toNat ..),
      resultAndFlag_of_exec rfl (subBytes_toNat ..) (flagByte_noBorrow_toNat ..)⟩⟩

/-- Settles O24: the word decodes alike for every Y nibble, and the flag is the bit of V[X] that the shift by one
drops. -/
theorem shiftsSetBitShiftedOut : Obligations.ShiftsSetBitShiftedOut := by
  intro x
  refine ⟨fun z => ?_, fun s =>
    ⟨resultAndFlag_of_exec rfl (ushiftRight_one_toNat _) (flagByte_bitOutRight_toNat _),
      resultAndFlag_of_exec rfl (shiftLeft_one_toNat _) (flagByte_bitOutLeft_toNat _)⟩⟩
  rw [ofNat_eq_encodeAlu 0x8 x z 0x6 0x8006 rfl, ofNat_eq_encodeAlu 0x8 x z 0xE 0x800E rfl]
  exact ⟨decode_encodeRegReg_shr x z, decode_encodeRegReg_shl x z⟩

/-- Settles O20: LD is one register write that falls through; VF is written only as the destination. -/
theorem assignLeavesFlag : Obligations.AssignLeavesFlag := fun x y =>
  ⟨decode_aluWord (z := 0x0) rfl rfl, fun s => ⟨_, rfl, setReg_fall_frame s x (s.reg y)⟩⟩
end

section
/-! PROOF. The index register and the random byte (R124, R126, R136, R137, R175): what one write of I followed by `fall`
leaves and the three instructions that are that write; and RND, one register write after one transaction with the
random-byte port. -/

namespace Sys2Proof.Machine

/-! ### One write of I, then `fall` (R20, R33) -/

theorem setIndex_fall_frame (s : State) (a : Addr) :
    (s.setIndex a).fall.i = a ∧ FallsThrough s (s.setIndex a).fall ∧ SameBut [.index, .pc] s (s.setIndex a).fall :=
  ⟨rfl, BitVec.toNat_add s.pc 2, ((SameBut.refl s).setIndex a).fall.mono (by simp)⟩

/-! ### RND (R126) -/

/-- The register write comes after the transaction, which touches neither registers nor PC, so the frames of the two
join. -/
theorem exec_rnd_frame (x : Reg) (kk : Byte) (s : State) :
    ∃ t, exec (.rnd x kk) s = .next t ∧ t.reg x = s.inputs.randByte &&& kk ∧
      t.history = .rand s.inputs.randByte :: s.history ∧ t.inputs = s.inputs.afterRand ∧ RegsSameBut [x] s t ∧
      FallsThrough s t ∧ SameBut [.regs, .pc, .inputs, .history] s t := by
  obtain ⟨hreg, hregs, hfall, hsame⟩ := setReg_fall_frame s.randByte.2 x (s.randByte.1 &&& kk)
  exact ⟨_, rfl, hreg, rfl, rfl, hregs, hfall, (sameBut_randByte s).trans hsame⟩

end Sys2Proof.Machine

open Sys2Proof Sys2Proof.Machine

/-- Settles O25: the random byte is masked as a bit vector, whose number is the masked number. -/
theorem randomAndImmediate : Obligations.RandomAndImmediate := by
  intro x kk
  have hword : BitVec.ofNat 16 (0xC000 + 0x100 * x.val + kk.toNat) = encode (.rnd x kk) :=
    ofNat_eq_encodeRegByte 0xC x kk 0xC000 rfl
  rw [hword]
  refine ⟨decode_encode _, fun s => ?_⟩
  obtain ⟨t, hexec, hreg, hframe⟩ := exec_rnd_frame x kk s
  exact ⟨t, hexec, by rw [hreg, BitVec.toNat_and], hframe⟩

/-- Settles O27: each is one write of I that falls through, of NNN, of the sum modulo 4096, and of the glyph's
address. -/
theorem indexInstructions : Obligations.IndexInstructions := by
  refine ⟨fun nnn => ?_, fun x => ?_⟩
  · have hld : BitVec.ofNat 16 (0xA000 + nnn.toNat) = encode (.ldIA nnn) := ofNat_eq_encodeAddr 0xA nnn 0xA000 rfl
    rw [hld]
    exact ⟨decode_encode _, fun s => ⟨_, rfl, setIndex_fall_frame s nnn⟩⟩
  · have hadd : BitVec.ofNat 16 (0xF01E + 0x100 * x.val) = encode (.addIV x) :=
      ofNat_eq_encodeRegSub 0xF x 0x1E 0xF01E rfl
    have hglyph : BitVec.ofNat 16 (0xF029 + 0x100 * x.val) = encode (.ldFV x) :=
      ofNat_eq_encodeRegSub 0xF x 0x29 0xF029 rfl
    rw [hadd, hglyph]
    refine ⟨decode_encode _, decode_encode _, fun s => ⟨?_, ?_⟩⟩
    · obtain ⟨hi, hframe⟩ := setIndex_fall_frame s (s.i + zext12 (s.reg x))
      exact ⟨_, rfl, by rw [hi, BitVec.toNat_add, zext12_toNat], hframe⟩
    · obtain ⟨hi, hframe⟩ := setIndex_fall_frame s (glyphAddr (s.reg x))
      exact ⟨_, rfl, by rw [hi, glyphAddr_toNat], hframe⟩

/-- Settles O26: RND takes the byte at the front of the port's list, whatever it is, and leaves the list behind it. -/
theorem randomPortCanAnswerEveryByte : Obligations.RandomPortCanAnswerEveryByte := by
  intro x kk r s
  obtain ⟨t, hexec, hreg, -, hinputs, -⟩ :=
    exec_rnd_frame x kk { s with inputs := { s.inputs with rand := r :: s.inputs.rand } }
  have hanswer : Inputs.randByte { s.inputs with rand := r :: s.inputs.rand } = r := rfl
  refine ⟨t, hexec, by rw [hreg, hanswer], ?_⟩
  rw [hinputs, Inputs.afterRand_rand, List.tail_cons]
end

section
/-! PROOF. Draw and key skips (R127 to R130, R168 to R172): which pixels lie under a sprite's set bits, what the loop
over them leaves and answers, the answer of a draw under either display, and what a key query followed by a skip leaves;
then DRW, SKP and SKNP. -/

namespace Sys2Proof.Machine

/-! ### Set bits and the pixels under them (R168, R171) -/

theorem mem_rowColumns {row : Byte} {c : Nat} : c ∈ rowColumns row ↔ c < 8 ∧ row.getLsbD (7 - c) = true := by
  simp [rowColumns]

theorem rowColumns_eq_nil {row : Byte} : rowColumns row = [] ↔ row = 0 := by
  refine ⟨fun hnil => BitVec.eq_of_getLsbD_eq fun j hj => ?_, fun hzero => by simp [hzero, rowColumns]⟩
  have hoff : ¬ row.getLsbD (7 - (7 - j)) = true := fun hon =>
    List.ne_nil_of_mem (mem_rowColumns.mpr ⟨by omega, hon⟩) hnil
  rw [Nat.sub_sub_self (by omega)] at hoff
  simpa using hoff

theorem mem_setBitsFrom {r₀ r c : Nat} {rows : List Byte} :
    (r, c) ∈ setBitsFrom r₀ rows ↔ ∃ k row, rows[k]? = some row ∧ r = r₀ + k ∧ c ∈ rowColumns row := by
  induction rows generalizing r₀ with
  | nil => simp [setBitsFrom]
  | cons row rest ih =>
    rw [setBitsFrom, List.mem_append, ih]
    constructor
    · rintro (hhead | ⟨k, row', hrow, rfl, hc⟩)
      · obtain ⟨c', hc, heq⟩ := List.mem_map.mp hhead
        cases heq
        exact ⟨0, row, rfl, rfl, hc⟩
      · exact ⟨k + 1, row', hrow, by omega, hc⟩
    · rintro ⟨_ | k, row', hrow, rfl, hc⟩
      · cases hrow
        exact .inl (List.mem_map_of_mem hc)
      · exact .inr ⟨k, row', hrow, by omega, hc⟩

theorem mem_setBits {r c : Nat} {rows : List Byte} :
    (r, c) ∈ setBits rows ↔ ∃ row, rows[r]? = some row ∧ c < 8 ∧ row.getLsbD (7 - c) = true := by
  simp [setBits, mem_setBitsFrom, mem_rowColumns]

theorem setBits_eq_nil {rows : List Byte} : setBits rows = [] ↔ ∀ row ∈ rows, row = 0 := by
  have hfrom : ∀ r, setBitsFrom r rows = [] ↔ ∀ row ∈ rows, row = 0 := by
    induction rows with
    | nil => simp [setBitsFrom]
    | cons row rest ih => simp [setBitsFrom, rowColumns_eq_nil, ih]
  exact hfrom 0

/-- The pixels the loop visits are those a set bit lies on. -/
theorem mem_spritePixels {w h : Nat} {e : Edge} {x y : Byte} {rows : List Byte} {p : Pixel} :
    p ∈ spritePixels w h e x y rows ↔ SetBitOn w h e x y rows p := by
  rw [spritePixels, List.mem_filterMap]
  constructor
  · rintro ⟨⟨r, c⟩, hbit, hp⟩
    obtain ⟨row, hrow, hc, hon⟩ := mem_setBits.mp hbit
    refine ⟨r, c, row, hrow, hc, hon, ?_⟩
    cases e with
    | wrap => exact (Option.some.inj hp).symm
    | clip =>
      obtain ⟨hin, heq⟩ := Option.ite_none_right_eq_some.mp hp
      cases heq
      exact ⟨rfl, hin⟩
  · rintro ⟨r, c, row, hrow, hc, hon, hp⟩
    refine ⟨(r, c), mem_setBits.mpr ⟨row, hrow, hc, hon⟩, ?_⟩
    cases e with
    | wrap => exact congrArg some hp.symm
    | clip =>
      obtain ⟨rfl, hin⟩ := hp
      exact if_pos hin

/-! ### The loop over the pixels (R171) -/

theorem mem_drawPixel (acc : Bool × Screen) (hs : acc.2.Sorted) (p q : Pixel) :
    q ∈ (drawPixel acc p).2 ↔ if q = p then p ∉ acc.2 else q ∈ acc.2 := Screen.mem_toggle p q acc.2 hs

theorem drawPixel_hit {acc : Bool × Screen} {p : Pixel} (h : p ∈ acc.2) : (drawPixel acc p).1 = true := by
  simp [drawPixel, h]

/-- A pixel is toggled once for each time the loop meets it, so its parity decides. -/
theorem mem_foldl_drawPixel (ps : List Pixel) (acc : Bool × Screen) (hs : acc.2.Sorted) (q : Pixel) :
    q ∈ (ps.foldl drawPixel acc).2 ↔ Xor (q ∈ acc.2) (Odd (ps.count q)) := by
  induction ps generalizing acc with
  | nil => simp [Xor]
  | cons p ps ih =>
    rw [List.foldl_cons, ih (drawPixel acc p) (Screen.sorted_toggle p acc.2 hs), mem_drawPixel acc hs]
    by_cases hq : q = p
    · subst hq
      rw [if_pos rfl, List.count_cons_self, Nat.odd_add_one]
      simp only [Xor]
      tauto
    · rw [if_neg hq, List.count_cons_of_ne (Ne.symm hq)]

/-- A hit once noted stays noted. -/
theorem foldl_drawPixel_hit (ps : List Pixel) (acc : Bool × Screen) (h : acc.1 = true) :
    (ps.foldl drawPixel acc).1 = true := by
  induction ps generalizing acc with
  | nil => exact h
  | cons p ps ih => exact ih (drawPixel acc p) (by simp [drawPixel, h])

/-- Without a hit the loop only turns pixels on: it found each of them off. -/
theorem mem_foldl_drawPixel_of_no_hit (ps : List Pixel) (acc : Bool × Screen) (hs : acc.2.Sorted)
    (hmiss : (ps.foldl drawPixel acc).1 = false) (q : Pixel) :
    q ∈ (ps.foldl drawPixel acc).2 ↔ q ∈ acc.2 ∨ q ∈ ps := by
  induction ps generalizing acc with
  | nil => simp
  | cons p ps ih =>
    have hoff : p ∉ acc.2 := fun hon =>
      Bool.false_ne_true (hmiss.symm.trans (foldl_drawPixel_hit ps (drawPixel acc p) (drawPixel_hit hon)))
    rw [List.foldl_cons, ih (drawPixel acc p) (Screen.sorted_toggle p acc.2 hs) hmiss, mem_drawPixel acc hs]
    by_cases hq : q = p
    · simp [hq, hoff]
    · simp [hq]

theorem drawSprite_sorted (w h : Nat) (e : Edge) (x y : Byte) (rows : List Byte) {scr : Screen} (hs : scr.Sorted) :
    (drawSprite w h e x y rows scr).2.Sorted := foldl_drawPixel_sorted _ (false, scr) hs

theorem mem_drawSprite (w h : Nat) (e : Edge) (x y : Byte) (rows : List Byte) {scr : Screen} (hs : scr.Sorted)
    (p : Pixel) : p ∈ (drawSprite w h e x y rows scr).2 ↔
      Xor (p ∈ scr) (Odd ((spritePixels w h e x y rows).count p)) := mem_foldl_drawPixel _ (false, scr) hs p

/-- The two draws meet a pixel equally often, so their toggles cancel. -/
theorem drawSprite_twice_screen (w h : Nat) (e : Edge) (x y : Byte) (rows : List Byte) {scr : Screen}
    (hs : scr.Sorted) : (drawSprite w h e x y rows (drawSprite w h e x y rows scr).2).2 = scr := by
  have honce : (drawSprite w h e x y rows scr).2.Sorted := drawSprite_sorted w h e x y rows hs
  refine Screen.ext_of_sorted (drawSprite_sorted w h e x y rows honce) hs fun p => ?_
  rw [mem_drawSprite _ _ _ _ _ _ honce, mem_drawSprite _ _ _ _ _ _ hs]
  simp only [Xor]
  tauto

/-- With every pixel of the sprite on, the loop hits at its first turn, if it has one. -/
theorem drawSprite_answer_iff_of_all_on {w h : Nat} {e : Edge} {x y : Byte} {rows : List Byte} {scr : Screen}
    (hon : ∀ p ∈ spritePixels w h e x y rows, p ∈ scr) :
    (drawSprite w h e x y rows scr).1 = true ↔ ∃ p, p ∈ spritePixels w h e x y rows := by
  rw [drawSprite]
  cases hps : spritePixels w h e x y rows with
  | nil => simp
  | cons p ps =>
    have hp : p ∈ scr := hon p (by simp [hps])
    exact iff_of_true (foldl_drawPixel_hit ps (drawPixel (false, scr) p) (drawPixel_hit hp)) ⟨p, by simp⟩

/-! ### The answer of a draw under either display (R169, R171, R172) -/

section
variable {s : State} {rows : List Byte} (x y : Byte)

theorem drawAnswer_framebuffer {w h : Nat} {e : Edge} (hd : s.params.display = .framebuffer w h e) :
    s.drawAnswer x y rows = (drawSprite w h e x y rows s.screen).1 := by
  rw [State.drawAnswer, hd]

theorem drawAnswer_of_no_set_bit (hrows : ∀ row ∈ rows, row = 0) : s.drawAnswer x y rows = false := by
  have hnil : setBits rows = [] := setBits_eq_nil.mpr hrows
  cases hd : s.params.display with
  | oracle => simp [State.drawAnswer, hd, hnil]
  | framebuffer w h e => simp [drawAnswer_framebuffer x y hd, drawSprite, spritePixels, hnil]

theorem drawAnswer_oracle_of_set_bit (hd : s.params.display = .oracle) (hrow : ∃ row ∈ rows, row ≠ 0) :
    s.drawAnswer x y rows = s.inputs.collisionBit := by
  obtain ⟨row, hmem, hne⟩ := hrow
  have hbits : setBits rows ≠ [] := fun hnil => hne (setBits_eq_nil.mp hnil row hmem)
  simp [State.drawAnswer, hd, hbits]

end

/-! ### DRW (R127) -/

/-- The register write comes after the transaction, which touches neither registers nor PC, so the frames of the two
join; the coordinates and the rows are read before either. -/
theorem exec_drw_frame (x y : Reg) (n : Fin 16) (s : State) :
    ∃ t, exec (.drw x y n) s = .next t ∧
      t.reg vf = flagByte (s.drawAnswer (s.reg x) (s.reg y) (s.spriteRows n.val)) ∧
      t.screen = s.drawScreen (s.reg x) (s.reg y) (s.spriteRows n.val) ∧
      t.history = .draw (s.reg x) (s.reg y) (s.spriteRows n.val)
        (s.drawAnswer (s.reg x) (s.reg y) (s.spriteRows n.val)) :: s.history ∧
      t.inputs = s.inputs.afterDraw s.params.display ∧ RegsSameBut [vf] s t ∧ FallsThrough s t ∧
      SameBut [.regs, .pc, .screen, .inputs, .history] s t := by
  have hdraw := sameBut_displayDraw s (s.reg x) (s.reg y) (s.spriteRows n.val)
  obtain ⟨hreg, hregs, hfall, hsame⟩ := setReg_fall_frame
    (s.displayDraw (s.reg x) (s.reg y) (s.spriteRows n.val)).2 vf
    (flagByte (s.drawAnswer (s.reg x) (s.reg y) (s.spriteRows n.val)))
  exact ⟨_, rfl, hreg, rfl, rfl, rfl, hregs, hfall, hdraw.trans hsame⟩

/-! ### One key query, then a skip (R128, R129) -/

theorem isKeyPressed_skipIf_frame (s : State) (k : Key) (c : Bool) :
    ((s.isKeyPressed k).2.skipIf c).pc.toNat = (s.pc.toNat + if c = true then 4 else 2) % 4096 ∧
      ((s.isKeyPressed k).2.skipIf c).history = .isKeyPressed k (s.inputs.keySample.isDown k) :: s.history ∧
      ((s.isKeyPressed k).2.skipIf c).inputs = s.inputs.afterKey ∧
      SameBut [.pc, .inputs, .history] s ((s.isKeyPressed k).2.skipIf c) :=
  ⟨skipIf_pc_toNat .., rfl, rfl, (sameBut_isKeyPressed s k).skipIf c⟩

end Sys2Proof.Machine

open Sys2Proof Sys2Proof.Machine

/-- Settles O28: DRW is one draw, whose answer goes to VF; the answer and the pixels are the display's, and a sprite
without rows has no set bit. -/
theorem drawReadsRowsAndSetsCollision : Obligations.DrawReadsRowsAndSetsCollision := by
  intro x y n
  rw [ofNat_eq_encodeRegReg 0xD x y n 0xD000 rfl]
  refine ⟨decode_encode (.drw x y n), fun s => ?_⟩
  obtain ⟨t, hexec, hreg, hscreen, hhistory, hinputs, hframe⟩ := exec_drw_frame x y n s
  refine ⟨t, s.spriteRows n.val, _, hexec, spriteRows_length .., fun k hk => ?_, hhistory, ?_, fun hn => ?_,
    fun w h e hd => ?_, fun hd => ⟨?_, drawAnswer_of_no_set_bit _ _, drawAnswer_oracle_of_set_bit _ _ hd,
      fun b rest hlist => ⟨?_, fun hrow => ?_⟩⟩, hinputs, hframe⟩
  · rw [spriteRows_getElem, atI_eq]
  · rw [hreg, flagByte_toNat]
  · have hnone : ∀ row ∈ s.spriteRows n.val, row = 0 := by simp [State.spriteRows, hn]
    rw [hreg, drawAnswer_of_no_set_bit _ _ hnone]
    rfl
  · rw [hscreen, drawAnswer_framebuffer _ _ hd, drawScreen_framebuffer hd]
  · rw [hscreen, drawScreen_oracle hd]
  · rw [hinputs, hd, Inputs.afterDraw, hlist, List.tail_cons]
  · rw [drawAnswer_oracle_of_set_bit _ _ hd hrow, Inputs.collisionBit, hlist]
    rfl

/-- Settles O30: the toggles of the two draws cancel, and after a first draw without a hit every pixel of the sprite is
on, so the second hits as soon as there is one. -/
theorem drawingTwiceRestoresThePixels : Obligations.DrawingTwiceRestoresThePixels := by
  intro w h e x y rows scr hwf
  have hs : scr.Sorted := ((Screen.wf_framebuffer w h e scr).mp hwf).1
  refine ⟨drawSprite_twice_screen w h e x y rows hs, fun hmiss => ?_⟩
  have hon : ∀ p ∈ spritePixels w h e x y rows, p ∈ (drawSprite w h e x y rows scr).2 := fun p hp =>
    (mem_foldl_drawPixel_of_no_hit _ _ hs hmiss p).mpr (.inr hp)
  simp only [drawSprite_answer_iff_of_all_on hon, mem_spritePixels]

/-- Settles O32: a register that holds a key number is sampled once and PC skips on the answer or on its negation; any
other is the fatal entry, whose word is the instruction's own. -/
theorem keySkipsSampleTheKeyOrAreFatal : Obligations.KeySkipsSampleTheKeyOrAreFatal := by
  intro x
  have hskp : BitVec.ofNat 16 (0xE09E + 0x100 * x.val) = encode (.skp x) := ofNat_eq_encodeRegSub 0xE x 0x9E 0xE09E rfl
  have hsknp : BitVec.ofNat 16 (0xE0A1 + 0x100 * x.val) = encode (.sknp x) :=
    ofNat_eq_encodeRegSub 0xE x 0xA1 0xE0A1 rfl
  rw [hskp, hsknp]
  refine ⟨decode_encode _, decode_encode _, fun s k hk => ⟨?_, ?_⟩, fun s hlarge =>
    ⟨⟨_, exec_skp_of_large s x hlarge, fatalTaken ..⟩, ⟨_, exec_sknp_of_large s x hlarge, fatalTaken ..⟩⟩⟩
  · exact ⟨_, exec_skp_of_key s x k hk, isKeyPressed_skipIf_frame s k _⟩
  · obtain ⟨hpc, hframe⟩ := isKeyPressed_skipIf_frame s k (!(s.inputs.keySample.isDown k))
    refine ⟨_, exec_sknp_of_key s x k hk, hpc.trans ?_, hframe⟩
    cases s.inputs.keySample.isDown k <;> rfl
end

section
/-! PROOF. The misc family (R131 to R140): the timer moves; the key-wait, clause by clause over the latch and the answer
(R132); and the runs of stores and loads at I, whose k-th byte stands at (I + k) mod 4096 (R63, R138 to R140). -/

namespace Sys2Proof.Machine

/-- The word of a family F row with X written in (R77, R85). -/
theorem decode_miscWord {i : Instr} {x : Reg} {kk : Byte} {n : Nat} (hn : n = 0xF000 + kk.toNat)
    (hi : encode i = encodeRegByte 0xF x kk) : decode (BitVec.ofNat 16 (n + 0x100 * x.val)) = some i := by
  rw [ofNat_eq_encodeRegSub 0xF x kk n hn, ← hi, decode_encode]

/-- `fall` after updates that leave PC alone (R20). -/
theorem fallsThrough_fall {s t : State} (h : t.pc = s.pc) : FallsThrough s t.fall := by
  rw [FallsThrough, fall_pc, h]
  exact BitVec.toNat_add s.pc 2

/-! ### The key-wait (R132) -/

section
variable {s t : State} {x : Reg}

/-- One query in each of the four cases. -/
theorem exec_ldVK_query (h : exec (.ldVK x) s = .next t) :
    t.history = .getPressedKey s.inputs.keySample.pressed :: s.history ∧ t.inputs = s.inputs.afterKey := by
  obtain ⟨-, -, rfl⟩ | ⟨k, -, -, rfl⟩ | ⟨k, -, -, rfl⟩ | ⟨k, o, -, -, rfl⟩ := exec_ldVK_cases h
  all_goals exact ⟨rfl, rfl⟩

theorem exec_ldVK_of_no_latch (h : exec (.ldVK x) s = .next t) (hl : s.latch = none) :
    t.latch = s.inputs.keySample.pressed ∧ t.pc = s.pc ∧ RegsSameBut [] s t := by
  cases ho : s.inputs.keySample.pressed with
  | none =>
    cases (exec_ldVK_idle s x hl ho).symm.trans h
    exact ⟨hl, rfl, fun _ _ => rfl⟩
  | some k =>
    cases (exec_ldVK_press s x k hl ho).symm.trans h
    exact ⟨rfl, rfl, fun _ _ => rfl⟩

theorem exec_ldVK_of_latch_down {k o : Key} (h : exec (.ldVK x) s = .next t) (hl : s.latch = some k)
    (ho : s.inputs.keySample.pressed = some o) : t.latch = some k ∧ t.pc = s.pc ∧ RegsSameBut [] s t := by
  cases (exec_ldVK_down s x k o hl ho).symm.trans h
  exact ⟨hl, rfl, fun _ _ => rfl⟩

theorem exec_ldVK_of_latch_up {k : Key} (h : exec (.ldVK x) s = .next t) (hl : s.latch = some k)
    (ho : s.inputs.keySample.pressed = none) :
    t.latch = none ∧ (t.reg x).toNat = k.val ∧ RegsSameBut [x] s t ∧ FallsThrough s t := by
  cases (exec_ldVK_release s x k hl ho).symm.trans h
  obtain ⟨hreg, hregs, hfall, -⟩ := setReg_fall_frame s.getPressedKey.2 x (BitVec.ofNat 8 k.val)
  refine ⟨rfl, (congrArg BitVec.toNat hreg).trans ?_, hregs, hfall⟩
  rw [BitVec.toNat_ofNat]
  omega

end

/-! ### A run of stores at I, then `fall` (R63, R138, R139) -/

theorem mem_addrsAtI {s : State} {n : Nat} {a : Addr} : a ∈ addrsAtI s n ↔ ∃ k < n, a = s.atI k := by
  simp [addrsAtI, atI_eq, eq_comm]

/-- Whatever the run stores, the bytes off its addresses are as before. -/
theorem storeAtI_fall_frame (s : State) (bs : List Byte) :
    BytesSameBut (addrsAtI s bs.length) s (s.storeAtI bs).fall ∧ FallsThrough s (s.storeAtI bs).fall ∧
      SameBut [.memory, .pc] s (s.storeAtI bs).fall :=
  ⟨fun a ha => readByte_storeAtI_outside s bs a fun k hk e => ha (mem_addrsAtI.mpr ⟨k, hk, e⟩),
    fallsThrough_fall rfl, ((SameBut.refl s).storeAtI bs).fall.mono (by simp)⟩

/-- LD B stores digit k at I + k (R138). -/
theorem readByte_storeDigits_toNat (s : State) (v : Byte) (k : Nat) (hk : k < 3) :
    ((s.storeAtI (bcdDigits v)).readByte (s.atI k)).toNat = v.toNat / 10 ^ (2 - k) % 10 := by
  have hlen : k < (bcdDigits v).length := hk
  rw [readByte_storeAtI_inside s _ (by simp [bcdDigits]) k hlen, bcdDigits_getElem_toNat]

/-- LD [I] stores register k at I + k (R139). -/
theorem readByte_storeRegs (s : State) {x k : Reg} (hk : k ≤ x) :
    (s.storeAtI (s.regsUpTo x)).readByte (s.atI k.val) = s.reg k := by
  have hlen := regsUpTo_length s x
  have hkx : k.val ≤ x.val := hk
  rw [readByte_storeAtI_inside s _ (by omega) k.val (by omega), regsUpTo_getElem s x k hk]

/-! ### A run of loads from I (R140) -/

theorem reg_loadRegs_of_le (s : State) {x k : Reg} (hk : k ≤ x) :
    (s.loadRegs x).reg k = s.readByte (s.atI k.val) := (reg_loadRegs s x k).trans (if_pos hk)

theorem reg_loadRegs_of_lt (s : State) {x k : Reg} (hk : x < k) : (s.loadRegs x).reg k = s.reg k :=
  (reg_loadRegs s x k).trans (if_neg hk.not_ge)

end Sys2Proof.Machine

open Sys2Proof Sys2Proof.Machine

/-- Settles O34: each is one write that falls through, of a register, of DT or of ST. -/
theorem timerInstructions : Obligations.TimerInstructions := by
  intro x
  refine ⟨decode_miscWord (kk := 0x07) rfl rfl, decode_miscWord (kk := 0x15) rfl rfl,
    decode_miscWord (kk := 0x18) rfl rfl, fun s => ⟨⟨_, rfl, setReg_fall_frame s x s.dt⟩, ?_, ?_⟩⟩
  · exact ⟨_, rfl, rfl, fallsThrough_fall rfl, ((SameBut.refl s).setDelay (s.reg x)).fall.mono (by simp)⟩
  · exact ⟨_, rfl, rfl, fallsThrough_fall rfl, ((SameBut.refl s).setSound (s.reg x)).fall.mono (by simp)⟩

/-- Settles O35: the query is common to the four cases of the key-wait; the latch and the answer choose the rest. -/
theorem keyWaitPressThenRelease : Obligations.KeyWaitPressThenRelease := by
  intro x
  refine ⟨decode_miscWord (kk := 0x0A) rfl rfl, fun s => ?_⟩
  obtain ⟨t, hexec⟩ : ∃ t, exec (.ldVK x) s = .next t := ⟨_, rfl⟩
  obtain ⟨hhistory, hinputs⟩ := exec_ldVK_query hexec
  exact ⟨t, hexec, hhistory, hinputs, (exec_sameBut hexec).mono (by simp [changes]),
    exec_ldVK_of_no_latch hexec, fun _ _ => exec_ldVK_of_latch_down hexec, fun _ => exec_ldVK_of_latch_up hexec⟩

/-- Settles O36: a run of three stores; a byte is below 256, so its hundreds are one digit. -/
theorem storeDecimalDigits : Obligations.StoreDecimalDigits := by
  intro x
  refine ⟨decode_miscWord (kk := 0x33) rfl rfl, fun s => ?_⟩
  have digit := readByte_storeDigits_toNat s (s.reg x)
  have hhundreds : (s.reg x).toNat / 100 % 10 = (s.reg x).toNat / 100 := by omega
  have hi : s.atI 0 = s.i := BitVec.add_zero s.i
  rw [← atI_eq, ← atI_eq]
  exact ⟨_, rfl, hi ▸ (digit 0 (by decide)).trans hhundreds, digit 1 (by decide),
    (digit 2 (by decide)).trans (by rw [Nat.pow_zero, Nat.div_one]), storeAtI_fall_frame s (bcdDigits _)⟩

/-- Settles O37: a run of X + 1 stores, at most 16, so no store meets an earlier one. -/
theorem storeRegisters : Obligations.StoreRegisters := by
  intro x
  refine ⟨decode_miscWord (kk := 0x55) rfl rfl, fun s => ⟨_, rfl, fun k hk => ?_, ?_⟩⟩
  · rw [← atI_eq]
    exact readByte_storeRegs s hk
  · rw [← regsUpTo_length s x]
    exact storeAtI_fall_frame s _

/-- Settles O38: the loads read memory and I, which no load changes. -/
theorem loadRegisters : Obligations.LoadRegisters := by
  intro x
  refine ⟨decode_miscWord (kk := 0x65) rfl rfl, fun s => ⟨_, rfl, fun k hk => ?_,
    fun k hk => reg_loadRegs_of_lt s hk, fallsThrough_fall (loadRegs_pc s x),
    ((SameBut.refl s).loadRegs x).fall.mono (by simp)⟩⟩
  rw [← atI_eq]
  exact reg_loadRegs_of_le s hk

/-- Settles O39: load k reads at the address store k wrote, since I is the same, and finds V[k] there. -/
theorem loadRegistersUndoesStoreRegisters : Obligations.LoadRegistersUndoesStoreRegisters := by
  refine fun x s => ⟨_, rfl, fun u hi hmem => ⟨_, rfl, fun k hk => ?_⟩⟩
  have haddr : u.atI k.val = s.atI k.val := by rw [State.atI, hi, State.atI]
  calc (u.loadRegs x).fall.reg k = u.readByte (u.atI k.val) := reg_loadRegs_of_le u hk
    _ = (s.storeAtI (s.regsUpTo x)).readByte (s.atI k.val) := by rw [haddr, hmem]; rfl
    _ = s.reg k := readByte_storeRegs s hk
end

section
/-! PROOF. What an instruction and a step keep (R86, R91, R142, R147 to R149, R160 to R166): RUN changes by a fatal error
alone, whose word is the word in memory at PC; every instruction answers a next state; no instruction touches the tick
schedule or the host's request; and the ideal schedule advances by one tick at a time. -/

namespace Sys2Proof

/-- An instruction without ignored bits has one word only (R77). -/
theorem encode_eq_of_decode {w : Word} {i : Instr} (h : decode w = some i) (hi : ignoredBits i = 0) : encode i = w := by
  rw [encode_of_decode h, hi]
  exact BitVec.and_allOnes

namespace Machine

section
variable {i : Instr} {s t : State}

/-! ### RUN and its report (R91, R148, R149) -/

/-- RET, CALL, SKP and SKNP, which have no ignored bits, can take a fatal error, of their own word; nothing else an
instruction does writes RUN (R147). -/
theorem exec_run_cases (h : exec i s = .next t) :
    t.run = s.run ∨ ignoredBits i = 0 ∧ ∃ k, t = s.takeFatal k (encode i) := by
  have frame : .run ∉ changes i → t.run = s.run := exec_sameBut h .run
  cases i
  case ret =>
    obtain ⟨-, rfl⟩ | ⟨-, rfl⟩ := exec_ret_cases h
    · exact .inr ⟨rfl, _, rfl⟩
    · exact .inl rfl
  case call =>
    obtain ⟨-, rfl⟩ | ⟨-, rfl⟩ := exec_call_cases h
    · exact .inr ⟨rfl, _, rfl⟩
    · exact .inl rfl
  case skp =>
    obtain ⟨-, rfl⟩ | ⟨_, -, rfl⟩ := exec_skp_cases h
    · exact .inr ⟨rfl, _, rfl⟩
    · exact .inl rfl
  case sknp =>
    obtain ⟨-, rfl⟩ | ⟨_, -, rfl⟩ := exec_sknp_cases h
    · exact .inr ⟨rfl, _, rfl⟩
    · exact .inl rfl
  all_goals exact .inl (frame (by simp [changes]))

theorem reportPrecise_of_running (h : s.run = .running) : s.ReportPrecise := fun _ _ _ hf => nomatch h.symm.trans hf

theorem cancel_reportPrecise (s : State) : s.cancel.ReportPrecise := fun _ _ _ hf => nomatch hf

/-- A fatal error leaves PC and memory, so its report stays true of them. -/
theorem takeFatal_reportPrecise (s : State) (k : FatalKind) : (s.takeFatal k s.fetchWord).ReportPrecise := by
  intro _ _ _ hf
  cases hf
  exact ⟨rfl, rfl⟩

/-- Either the machine still runs, or the report's word is the encoding of the instruction fetched, which is the word
it was decoded from. -/
theorem exec_reportPrecise (hr : s.run = .running) (hd : decode s.fetchWord = some i) (h : exec i s = .next t) :
    t.ReportPrecise := by
  obtain hrun | ⟨hi, k, rfl⟩ := exec_run_cases h
  · exact reportPrecise_of_running (hrun.trans hr)
  · rw [encode_eq_of_decode hd hi]
    exact takeFatal_reportPrecise s k

/-! ### Every instruction and every step answers a next state (R148, R154) -/

theorem exec_next (i : Instr) (s : State) : ∃ t, exec i s = .next t := by
  cases i
  case ret =>
    by_cases h : s.sp = 0
    · exact ⟨_, exec_ret_of_empty s h⟩
    · exact ⟨_, exec_ret_of_nonempty s h⟩
  case call nnn =>
    by_cases h : s.sp.val = 16
    · exact ⟨_, exec_call_of_full s nnn h⟩
    · exact ⟨_, exec_call_of_room s nnn (by omega)⟩
  case skp x =>
    obtain h | ⟨k, h⟩ := large_or_key (s.reg x)
    · exact ⟨_, exec_skp_of_large s x h⟩
    · exact ⟨_, exec_skp_of_key s x k h⟩
  case sknp x =>
    obtain h | ⟨k, h⟩ := large_or_key (s.reg x)
    · exact ⟨_, exec_sknp_of_large s x h⟩
    · exact ⟨_, exec_sknp_of_key s x k h⟩
  all_goals exact ⟨_, rfl⟩

theorem step_of_undefined (hs : s.Ready) (hd : decode s.fetchWord = none) :
    step s = .next (s.beginWakeup.takeFatal .undefinedInstruction s.fetchWord) := by
  rw [step_of_ready s hs, cycle, beginWakeup_fetchWord, hd]

theorem step_of_cancelDue (hp : wellFormedParams s.params = true) (hr : s.run = .running) (hc : s.cancelDue = true) :
    step s = .next s.cancel := by
  simp [step, wakeup, hp, hr, hc]

theorem step_next (hp : wellFormedParams s.params = true) : ∃ t, step s = .next t := by
  cases hr : s.run with
  | halted why => exact ⟨_, step_of_halted hp hr⟩
  | running =>
    cases hc : s.cancelDue with
    | true => exact ⟨_, step_of_cancelDue hp hr hc⟩
    | false =>
      cases hd : decode s.fetchWord with
      | none => exact ⟨_, step_of_undefined ⟨hp, hr, hc⟩ hd⟩
      | some i => exact step_of_decode ⟨hp, hr, hc⟩ hd ▸ exec_next i s.beginWakeup

/-! ### Cancellation (R166) -/

theorem cancelDue_iff (s : State) : s.cancelDue = true ↔ s.inputs.cancelAfter = some 0 := beq_iff_eq

theorem sameBut_cancel (s : State) : SameBut [.run] s s.cancel := fun p hp => by cases p <;> simp_all [Part.same]

@[simp] theorem beginWakeup_cancelAfter (s : State) :
    s.beginWakeup.inputs.cancelAfter = s.inputs.cancelAfter.map (· - 1) := rfl

/-- A port query moves on in the lists of answers and leaves the host's request. -/
theorem exec_cancelAfter (h : exec i s = .next t) : t.inputs.cancelAfter = s.inputs.cancelAfter := by
  have frame : .inputs ∉ changes i → t.inputs = s.inputs := exec_sameBut h .inputs
  cases i
  case rnd => injection h with h; subst h; rfl
  case drw => injection h with h; subst h; exact Inputs.afterDraw_cancelAfter ..
  case skp => obtain ⟨-, rfl⟩ | ⟨_, -, rfl⟩ := exec_skp_cases h <;> rfl
  case sknp => obtain ⟨-, rfl⟩ | ⟨_, -, rfl⟩ := exec_sknp_cases h <;> rfl
  case ldVK =>
    obtain ⟨-, hinputs⟩ := exec_ldVK_query h
    rw [hinputs, Inputs.afterKey_cancelAfter]
  all_goals exact congrArg Inputs.cancelAfter (frame (by simp [changes]))

/-- An instruction halts the machine by a fatal error, never by a cancellation. -/
theorem exec_not_cancelled (hr : s.run = .running) (h : exec i s = .next t) : t.run ≠ .halted .cancelled := by
  obtain hrun | ⟨-, k, rfl⟩ := exec_run_cases h
  · simp [hrun, hr]
  · simp

/-! ### The ideal schedule (R161, R162, R164) -/

/-- The closed form of R164: the ticks in the wakeups before wakeup n. -/
def ticksBefore (fHz n : Nat) : Nat := if 60 ≤ fHz then 60 * (n - 1) / fHz else n - 1

theorem onSchedule_iff (s : State) :
    s.OnSchedule ↔ (s.params.timing = .ideal → s.lastTick = ticksBefore s.params.fHz s.wakeups) := Iff.rfl

/-- From one wakeup to the next the floor of `60 * n / F_HZ` rises by at most one, and it rises iff a whole sixtieth
of a second has passed. -/
theorem sixtieths_succ {fHz m : Nat} (hf : 60 ≤ fHz) : 60 * (m + 1) / fHz =
    if (60 * m / fHz + 1) * fHz ≤ 60 * (m + 1) then 60 * m / fHz + 1 else 60 * m / fHz := by
  have hpos : 0 < fHz := by omega
  have hle : 60 * m / fHz ≤ 60 * (m + 1) / fHz := Nat.div_le_div_right (by omega)
  have hge : 60 * (m + 1) / fHz ≤ 60 * m / fHz + 1 := by
    rw [← Nat.add_div_right _ hpos]
    exact Nat.div_le_div_right (by omega)
  simp only [← Nat.le_div_iff_mul_le hpos]
  split <;> omega

/-- The closed form meets the tick rule of R161, wakeup by wakeup. -/
theorem ticksBefore_succ {fHz : Nat} (hf : 1 ≤ fHz) (n : Nat) : ticksBefore fHz (n + 1) =
    if (ticksBefore fHz n + 1) * fHz ≤ 60 * n then ticksBefore fHz n + 1 else ticksBefore fHz n := by
  cases n with
  | zero => simp [ticksBefore]; omega
  | succ m =>
    by_cases h60 : 60 ≤ fHz
    · simp only [ticksBefore, if_pos h60, Nat.add_sub_cancel]
      exact sixtieths_succ h60
    · have hdue : (m + 1) * fHz ≤ 60 * (m + 1) := by rw [Nat.mul_comm]; exact Nat.mul_le_mul_right _ (by omega)
      simp only [ticksBefore, if_neg h60, Nat.add_sub_cancel, if_pos hdue]

theorem one_le_fHz {p : Params} (hp : wellFormedParams p = true) : 1 ≤ p.fHz := by
  have ⟨hf, _⟩ := Bool.and_eq_true_iff.mp hp
  exact of_decide_eq_true hf

theorem lastTickAfter_ideal (h : s.params.timing = .ideal) (due : Bool) :
    s.lastTickAfter due = if due then s.lastTick + 1 else s.lastTick := by
  rw [State.lastTickAfter, h]

theorem lastTickAfter_abstract (h : s.params.timing = .abstract) (due : Bool) : s.lastTickAfter due = s.lastTick := by
  rw [State.lastTickAfter, h]

theorem beginWakeup_onSchedule (hf : 1 ≤ s.params.fHz) (hs : s.OnSchedule) : s.beginWakeup.OnSchedule := by
  rw [onSchedule_iff, beginWakeup_params, beginWakeup_wakeups, beginWakeup_lastTick]
  intro hi
  simp only [lastTickAfter_ideal hi, tickDue_ideal s hi, ticksBefore_succ hf, (onSchedule_iff s).mp hs hi]

theorem State.OnSchedule.congr (hs : s.OnSchedule) (hp : t.params = s.params) (hw : t.wakeups = s.wakeups)
    (hl : t.lastTick = s.lastTick) : t.OnSchedule := by
  unfold State.OnSchedule
  rwa [hp, hw, hl]

theorem exec_onSchedule (h : exec i s = .next t) (hs : s.OnSchedule) : t.OnSchedule := by
  have frame := exec_sameBut h
  have hwakeups : t.wakeups = s.wakeups := frame .timeBase (by cases i <;> simp [changes])
  have hlastTick : t.lastTick = s.lastTick := frame .tickMark (by cases i <;> simp [changes])
  exact hs.congr (exec_params h) hwakeups hlastTick

end

end Machine
end Sys2Proof

open Sys2Proof Sys2Proof.Machine

/-- Settles O59: a halted CORE stays as it is, a cancellation makes no report, an undefined word is reported as it was
fetched, and an instruction's own word is the one fetched. -/
theorem stepKeepsReportPrecise : Obligations.StepKeepsReportPrecise := by
  intro s t hs h
  have hw := beginWakeup_fetchWord s
  obtain ⟨-, ⟨_, -, rfl⟩ | ⟨-, -, rfl⟩ | ⟨-, -, -, rfl⟩ | ⟨hr, -, i, hd, he⟩⟩ := step_cases h
  · exact hs
  · exact cancel_reportPrecise s
  · exact hw ▸ takeFatal_reportPrecise s.beginWakeup _
  · exact exec_reportPrecise ((beginWakeup_run s).trans hr) (hw ▸ hd) he

/-- Settles O60: the start of a wakeup keeps the schedule by the tick rule, and nothing after it touches what the
schedule speaks of. -/
theorem stepKeepsTickSchedule : Obligations.StepKeepsTickSchedule := by
  intro s t hs h
  obtain ⟨hp, hcases⟩ := step_cases h
  have hb : s.beginWakeup.OnSchedule := beginWakeup_onSchedule (one_le_fHz hp) hs
  obtain ⟨_, -, rfl⟩ | ⟨-, -, rfl⟩ | ⟨-, -, -, rfl⟩ | ⟨-, -, i, -, he⟩ := hcases
  · exact hs
  · exact hs
  · exact hb
  · exact exec_onSchedule he hb

/-- Settles O47: the words of R86's list are those decode refuses, and the cycle then takes the fatal error. -/
theorem undefinedWordIsFatal : Obligations.UndefinedWordIsFatal := by
  intro s hs hw
  have hd : decode s.fetchWord = none := (decodeRefusesExactlyUndefinedWords _).mpr hw
  exact ⟨_, step_of_undefined hs hd, fatalTaken ..⟩

/-- Settles O48: an instruction that changes RUN has taken a fatal error of its own word. -/
theorem fatalErrorsArePrecise : Obligations.FatalErrorsArePrecise := by
  intro i s t h hne
  obtain hrun | ⟨-, k, rfl⟩ := exec_run_cases h
  · exact absurd hrun hne
  · exact ⟨k, fatalTaken ..⟩

/-- Settles O50: a request whose count is 0 is taken before the wakeup; without a request the step is no cancellation,
makes none, and its instruction or undefined word can halt the machine by a fatal error only. -/
theorem cancellationHaltsBetweenWakeups : Obligations.CancellationHaltsBetweenWakeups := by
  refine ⟨fun s hp hr hc => ⟨_, step_of_cancelDue hp hr ((cancelDue_iff s).mpr hc), cancel_run s, sameBut_cancel s⟩,
    fun s t hnone h => ?_⟩
  have hb : s.beginWakeup.inputs.cancelAfter = none := by rw [beginWakeup_cancelAfter, hnone, Option.map_none]
  obtain ⟨-, ⟨_, -, rfl⟩ | ⟨-, hdue, rfl⟩ | ⟨-, -, -, rfl⟩ | ⟨hr, -, i, -, he⟩⟩ := step_cases h
  · exact ⟨hnone, id⟩
  · exact absurd (hnone.symm.trans ((cancelDue_iff s).mp hdue)) nofun
  · exact ⟨hb, nofun⟩
  · exact ⟨(exec_cancelAfter he).trans hb, fun hc => absurd hc (exec_not_cancelled ((beginWakeup_run s).trans hr) he)⟩

/-- Settles O51: case by case over the instructions, then over what a wakeup can meet. -/
theorem nothingFaultsOrIsRefused : Obligations.NothingFaultsOrIsRefused := ⟨exec_next, fun _ => step_next⟩
end

section
/-! PROOF. The tick and the start of a wakeup (R156 to R163, R166): the two timers as numbers, over any number of
ticks, the audio gate, the tick rule over the rationals, and which surroundings the start of a wakeup moves on. -/

namespace Sys2Proof.Machine

section
variable (s : State)

/-! ### The tick (R156 to R159) -/

theorem tick_dt_toNat : s.tick.dt.toNat = s.dt.toNat - 1 := by rw [tick_eq]; exact decrementTimer_toNat s.dt

theorem tick_st_toNat : s.tick.st.toNat = s.st.toNat - 1 := by rw [tick_eq]; exact decrementTimer_toNat s.st

/-- The gate looks at ST after the decrement. -/
theorem tick_of_st_pos (h : 0 < s.tick.st.toNat) :
    s.tick.audio = .playing ∧ s.tick.history = .render :: .play :: s.history := by
  have hst : decrementTimer s.st ≠ 0 := fun hzero => by simp [tick_eq, hzero] at h
  simp only [tick_eq, if_neg hst, and_self]

theorem tick_of_st_zero (h : s.tick.st.toNat = 0) :
    s.tick.audio = .paused ∧ s.tick.history = .render :: .pause :: s.history := by
  have hst : decrementTimer s.st = 0 := BitVec.eq_of_toNat_eq (by rwa [tick_eq] at h)
  simp only [tick_eq, if_pos hst, and_self]

theorem sameBut_tick : SameBut [.delay, .sound, .audio, .history] s s.tick := by
  rw [tick_eq]
  exact fun p hp => by cases p <;> simp_all [Part.same, State.reg, State.readByte, State.stackEntry]

/-- n decrements, the first of them before the other n - 1. -/
theorem iterate_tick_timers (n : Nat) :
    (State.tick^[n] s).dt.toNat = s.dt.toNat - n ∧ (State.tick^[n] s).st.toNat = s.st.toNat - n := by
  induction n generalizing s with
  | zero => exact ⟨rfl, rfl⟩
  | succ n ih =>
    obtain ⟨hdt, hst⟩ := ih s.tick
    rw [Function.iterate_succ_apply, hdt, hst, tick_dt_toNat, tick_st_toNat]
    omega

/-! ### The tick rule in seconds (R161, R162) -/

/-- `1/60 <= n/F - l/60` without the denominators. -/
theorem sixtieth_le_iff {f : Nat} (hf : 1 ≤ f) (n l : Nat) :
    (1 : ℚ) / 60 ≤ (n : ℚ) / f - (l : ℚ) / 60 ↔ (l + 1) * f ≤ 60 * n := by
  have hpos : (0 : ℚ) < f := by exact_mod_cast hf
  rw [le_sub_iff_add_le, ← add_div, div_le_div_iff₀ (by norm_num) hpos, add_comm, mul_comm (n : ℚ)]
  exact_mod_cast Iff.rfl

/-! ### The start of a wakeup (R160, R163, R166) -/

/-- The controller's own fields are in no other part. -/
theorem sameBut_advance (t : State) (l n : Nat) (e : Inputs) :
    SameBut [.timeBase, .inputs, .tickMark] t { t with lastTick := l, wakeups := n, inputs := e } :=
  fun p hp => by cases p <;> simp_all [Part.same, State.reg, State.readByte, State.stackEntry]

theorem sameBut_beginWakeup : SameBut [.timeBase, .inputs, .tickMark] (s.tickIf s.tickDue) s.beginWakeup :=
  sameBut_advance _ _ _ _

theorem sameBut_beginWakeup_of_due (h : s.tickDue = true) :
    SameBut [.timeBase, .inputs, .tickMark] s.tick s.beginWakeup := by
  have hframe := sameBut_beginWakeup s
  rwa [h] at hframe

theorem lastTickAfter_false : s.lastTickAfter false = s.lastTick := by
  cases h : s.params.timing with
  | ideal => exact lastTickAfter_ideal h false
  | abstract => exact lastTickAfter_abstract h false

/-- LAST_TICK moves with a tick only. -/
theorem sameBut_beginWakeup_of_not_due (h : s.tickDue = false) : SameBut [.timeBase, .inputs] s s.beginWakeup := by
  have hframe := sameBut_beginWakeup s
  rw [h] at hframe
  intro p hp
  by_cases hmark : p = .tickMark
  · subst hmark
    show s.beginWakeup.lastTick = s.lastTick
    rw [beginWakeup_lastTick, h, lastTickAfter_false]
  · exact hframe p (by simp_all)

variable {s}

theorem tickDue_abstract (h : s.params.timing = .abstract) : s.tickDue = s.inputs.tickBit := by rw [State.tickDue, h]

theorem Inputs.tickBit_of_tick {e : Inputs} {b : Bool} {rest : List Bool} (h : e.tick = b :: rest) : e.tickBit = b := by
  rw [Inputs.tickBit, h]
  rfl

end

end Sys2Proof.Machine

open Sys2Proof Sys2Proof.Machine

/-- Settles O41: the gate and the frame of a tick, each from its whole effect. -/
theorem tickEffect : Obligations.TickEffect := fun s =>
  ⟨tick_dt_toNat s, tick_st_toNat s, tick_of_st_pos s, tick_of_st_zero s, sameBut_tick s⟩

/-- Settles O42, by induction on the number of ticks. -/
theorem timersCountDownAndSaturate : Obligations.TimersCountDownAndSaturate :=
  fun n s => iterate_tick_timers s n

/-- Settles O43: the model's comparison is the rational one multiplied out, and LAST_TICK is held in sixtieths. -/
theorem idealTickIsDueBySixtieths : Obligations.IdealTickIsDueBySixtieths := by
  intro s hi hf
  refine ⟨by rw [tickDue_ideal s hi, sixtieth_le_iff hf], ?_⟩
  rw [beginWakeup_lastTick, lastTickAfter_ideal hi]
  split
  · push_cast
    ring
  · ring

/-- Settles O44: the frame of the wakeup's start with and without its tick, and each list of answers after the tick
decision, by timing model. -/
theorem wakeupStartsWithDueTick : Obligations.WakeupStartsWithDueTick := by
  intro s
  have htick : s.beginWakeup.inputs.tick = (s.inputs.afterTickDecision s.params.timing).tick := rfl
  have hdraws : s.beginWakeup.inputs.draws = (s.inputs.afterTickDecision s.params.timing).draws := rfl
  refine ⟨sameBut_beginWakeup_of_due s, sameBut_beginWakeup_of_not_due s, beginWakeup_wakeups s,
    Inputs.afterTickDecision_rand .., Inputs.afterTickDecision_keys .., Inputs.afterTickDecision_collision ..,
    cancelDue_iff s, fun hnone => ?_, fun n hsome => ?_, fun hi => ?_, fun ha => ⟨lastTickAfter_abstract ha _,
      fun b rest hlist => ⟨(tickDue_abstract ha).trans (Inputs.tickBit_of_tick hlist), ?_⟩⟩⟩
  · rw [beginWakeup_cancelAfter, hnone, Option.map_none]
  · rw [beginWakeup_cancelAfter, hsome, Option.map_some, Nat.add_sub_cancel]
  · rw [htick, hdraws, hi, Inputs.afterTickDecision_ideal]
    exact ⟨rfl, rfl⟩
  · rw [htick, ha, Inputs.afterTickDecision_abstract_tick, hlist, List.tail_cons]
end

section
/-! PROOF. The contracts of the devices: where distinct set bits name distinct pixels, the loop of a draw answers and
toggles as R168 says; a draw without a set bit (R169); and the key an Input query reports (R173). -/

namespace Sys2Proof.Machine

/-! ### Distinct set bits name distinct pixels (R168, R171) -/

theorem rowColumns_nodup (row : Byte) : (rowColumns row).Nodup := List.nodup_range.filter _

theorem setBitsFrom_nodup (r : Nat) (rows : List Byte) : (setBitsFrom r rows).Nodup := by
  induction rows generalizing r with
  | nil => exact List.nodup_nil
  | cons row rest ih =>
    refine ((rowColumns_nodup row).map (Prod.mk_right_injective r)).append (ih (r + 1)) fun rc hrow hrest => ?_
    obtain ⟨c, -, rfl⟩ := List.mem_map.mp hrow
    obtain ⟨k, _, -, hr, -⟩ := mem_setBitsFrom.mp hrest
    omega

theorem lt_of_mem_setBits {rows : List Byte} {rc : Nat × Nat} (h : rc ∈ setBits rows) :
    rc.1 < rows.length ∧ rc.2 < 8 := by
  obtain ⟨row, hrow, hc, -⟩ := mem_setBits.mp h
  exact ⟨(List.getElem?_eq_some_iff.mp hrow).1, hc⟩

/-- Two offsets below the modulus with the same residue from the same origin are the same. -/
theorem eq_of_add_mod_eq {a m c d : Nat} (hc : c < m) (hd : d < m) (h : (a + c) % m = (a + d) % m) : c = d :=
  (Nat.ModEq.add_left_cancel' a h).eq_of_lt_of_lt hc hd

/-- Clipping never folds the display onto itself; wrapping does not when the sprite fits in it. -/
theorem pixelAt_inj {w h : Nat} {e : Edge} {x y : Byte} {rows : List Byte} {p : Pixel} {b d : Nat × Nat}
    (hfit : e = .wrap → 8 ≤ w ∧ rows.length ≤ h) (hb : b ∈ setBits rows) (hd : d ∈ setBits rows)
    (hbp : pixelAt w h e x y b = some p) (hdp : pixelAt w h e x y d = some p) : b = d := by
  obtain ⟨hb1, hb2⟩ := lt_of_mem_setBits hb
  obtain ⟨hd1, hd2⟩ := lt_of_mem_setBits hd
  cases e with
  | wrap =>
    obtain ⟨hw, hh⟩ := hfit rfl
    cases hbp
    obtain ⟨hx, hy⟩ := (Pixel.ext_iff' _ _).mp (Option.some.inj hdp)
    exact (Prod.ext (eq_of_add_mod_eq (by omega) (by omega) hy) (eq_of_add_mod_eq (by omega) (by omega) hx)).symm
  | clip =>
    obtain ⟨-, hbp⟩ := Option.ite_none_right_eq_some.mp hbp
    obtain ⟨-, hdp⟩ := Option.ite_none_right_eq_some.mp hdp
    obtain ⟨hx, hy⟩ := (Pixel.ext_iff' _ _).mp (Option.some.inj (hbp.trans hdp.symm))
    exact Prod.ext (Nat.add_left_cancel hy) (Nat.add_left_cancel hx)

theorem spritePixels_nodup {w h : Nat} {e : Edge} {rows : List Byte} (x y : Byte)
    (hfit : e = .wrap → 8 ≤ w ∧ rows.length ≤ h) : (spritePixels w h e x y rows).Nodup := by
  refine List.pairwise_filterMap.mpr ((setBitsFrom_nodup 0 rows).imp_of_mem ?_)
  rintro b d hb hd hne p hbp _ hdp rfl
  exact hne (pixelAt_inj hfit hb hd hbp hdp)

/-! ### The answer of a draw (R168, R169) -/

/-- Where the loop meets no pixel twice, it finds each as it was before the draw. -/
theorem foldl_drawPixel_answer_iff {ps : List Pixel} (hnodup : ps.Nodup) (acc : Bool × Screen) (hs : acc.2.Sorted) :
    (ps.foldl drawPixel acc).1 = true ↔ acc.1 = true ∨ ∃ p ∈ ps, p ∈ acc.2 := by
  induction ps generalizing acc with
  | nil => simp
  | cons p ps ih =>
    obtain ⟨hp, hps⟩ := List.nodup_cons.mp hnodup
    have hrest : (∃ q ∈ ps, q ∈ (drawPixel acc p).2) ↔ ∃ q ∈ ps, q ∈ acc.2 :=
      exists_congr fun q => and_congr_right fun hq => by
        rw [mem_drawPixel acc hs, if_neg (ne_of_mem_of_not_mem hq hp)]
    have hturn : (drawPixel acc p).1 = true ↔ acc.1 = true ∨ p ∈ acc.2 := by simp [drawPixel]
    rw [List.foldl_cons, ih hps (drawPixel acc p) (Screen.sorted_toggle p acc.2 hs), hrest, hturn, or_assoc,
      List.exists_mem_cons_iff]

theorem drawSprite_answer_iff {w h : Nat} {e : Edge} {x y : Byte} {rows : List Byte} {scr : Screen}
    (hfit : e = .wrap → 8 ≤ w ∧ rows.length ≤ h) (hs : scr.Sorted) :
    (drawSprite w h e x y rows scr).1 = true ↔ ∃ p ∈ scr, SetBitOn w h e x y rows p := by
  rw [drawSprite, foldl_drawPixel_answer_iff (spritePixels_nodup x y hfit) (false, scr) hs]
  simp [mem_spritePixels, and_comm]

/-- A pixel that occurs once toggles once. -/
theorem mem_drawSprite_iff {w h : Nat} {e : Edge} {x y : Byte} {rows : List Byte} {scr : Screen}
    (hfit : e = .wrap → 8 ≤ w ∧ rows.length ≤ h) (hs : scr.Sorted) (p : Pixel) :
    p ∈ (drawSprite w h e x y rows scr).2 ↔ Xor (p ∈ scr) (SetBitOn w h e x y rows p) := by
  have hodd : Odd ((spritePixels w h e x y rows).count p) ↔ SetBitOn w h e x y rows p := by
    rw [(spritePixels_nodup x y hfit).count, ← mem_spritePixels]
    split <;> simp_all
  rw [mem_drawSprite w h e x y rows hs, hodd]

theorem drawScreen_of_no_set_bit (s : State) (x y : Byte) {rows : List Byte} (hrows : ∀ row ∈ rows, row = 0) :
    s.drawScreen x y rows = s.screen := by
  have hnil : setBits rows = [] := setBits_eq_nil.mpr hrows
  cases hd : s.params.display with
  | oracle => exact drawScreen_oracle hd x y rows
  | framebuffer w h e => simp [drawScreen_framebuffer hd, drawSprite, spritePixels, hnil]

/-! ### The Input (R173) -/

/-- Going round from the preferred key meets every key. -/
theorem KeySample.pressed_eq_none_iff (q : KeySample) : q.pressed = none ↔ ∀ k, q.isDown k = false := by
  simp only [KeySample.pressed, List.find?_eq_none, List.forall_mem_map, List.mem_finRange, true_imp_iff,
    Bool.not_eq_true]
  exact ⟨fun h k => add_sub_cancel q.prefer k ▸ h (k - q.prefer), fun h j => h (q.prefer + j)⟩

theorem KeySample.isDown_of_pressed {q : KeySample} {k : Key} (h : q.pressed = some k) : q.isDown k = true :=
  List.find?_some h

/-- The preferred key is asked first. -/
theorem KeySample.pressed_of_prefer_down {q : KeySample} (h : q.isDown q.prefer = true) :
    q.pressed = some q.prefer := by
  rw [KeySample.pressed, List.finRange_succ, List.map_cons, add_zero, List.find?_cons_of_pos h]

theorem Inputs.keySample_of_keys {e : Inputs} {q : KeySample} {rest : List KeySample} (h : e.keys = q :: rest) :
    e.keySample = q := by
  rw [Inputs.keySample, h]
  rfl

theorem Inputs.afterKey_keys_of_keys {e : Inputs} {q : KeySample} {rest : List KeySample} (h : e.keys = q :: rest) :
    e.afterKey.keys = rest := by
  rw [Inputs.afterKey_keys, h, List.tail_cons]

end Sys2Proof.Machine

open Sys2Proof Sys2Proof.Machine

/-- Settles O29: on such a display the loop meets each pixel under a set bit once. -/
theorem framebufferLoopMeetsDrawContract : Obligations.FramebufferLoopMeetsDrawContract := by
  intro w h e x y rows scr _ _ hfit hwf
  have ⟨hs, _⟩ := (Screen.wf_framebuffer w h e scr).mp hwf
  exact ⟨drawSprite_answer_iff hfit hs, mem_drawSprite_iff hfit hs⟩

/-- Settles O31: without a set bit there is no pixel to meet. -/
theorem emptySpriteNeverCollides : Obligations.EmptySpriteNeverCollides := fun s x y _ hrows =>
  ⟨drawAnswer_of_no_set_bit x y hrows, drawScreen_of_no_set_bit s x y hrows⟩

/-- Settles O33: the sample at the front of the list answers the one query of each of the three instructions. -/
theorem pressedKeyContract : Obligations.PressedKeyContract := by
  refine ⟨fun _ _ => rfl, KeySample.pressed_eq_none_iff, fun _ _ => KeySample.isDown_of_pressed,
    fun down k => KeySample.pressed_of_prefer_down (q := ⟨down, k⟩), fun s q rest hkeys x => ⟨fun k hk => ⟨?_, ?_⟩, ?_⟩⟩
  all_goals
    have hq := Inputs.keySample_of_keys hkeys
    have hrest := Inputs.afterKey_keys_of_keys hkeys
  · exact ⟨_, exec_skp_of_key s x k hk, hq ▸ rfl, hrest⟩
  · exact ⟨_, exec_sknp_of_key s x k hk, hq ▸ rfl, hrest⟩
  · obtain ⟨t, hexec⟩ := exec_next (.ldVK x) s
    obtain ⟨hhistory, hinputs⟩ := exec_ldVK_query hexec
    exact ⟨t, hexec, hq ▸ hhistory, hinputs ▸ hrest⟩
end

section
/-! PROOF. Start-up (R179): what each byte of memory holds when it is created, the two ways a run begins or does not,
and the state of the reference parameters, whose memory lists no cell. -/

namespace Sys2Proof.Machine

/-! ### Memory as it is created (R55 to R57) -/

theorem toNat_ofNat_of_lt_memSize {k : Nat} (h : k < 4096) : (BitVec.ofNat 12 k).toNat = k :=
  (BitVec.toNat_ofNat k 12).trans (Nat.mod_eq_of_lt h)

/-- A run of 4096 byte writes from address 0 on meets every address once. -/
theorem Memory.read_writeList_whole (m : Memory) {bs : List Byte} (hlen : bs.length = 4096) (a : Addr) :
    (m.writeList 0 bs).read a = bs[a.toNat]'(hlen ▸ a.isLt) := by
  simpa using Memory.read_writeList_inside bs m 0 hlen.le a.toNat (hlen ▸ a.isLt)

theorem createMemory_read (b : BootParams) (a : Addr) : (createMemory b).read a = b.byteAt a := by
  rw [createMemory, Memory.read_writeList_whole [] (by rw [List.length_map, List.length_range]) a, List.getElem_map,
    List.getElem_range, BitVec.ofNat_toNat, BitVec.setWidth_eq]

theorem BootParams.byteAt_font (b : BootParams) (k : Fin 80) : b.byteAt (BitVec.ofNat 12 k.val) = b.font.get k := by
  have hk : (BitVec.ofNat 12 k.val).toNat = k.val := toNat_ofNat_of_lt_memSize (by omega)
  simp only [BootParams.byteAt, hk, k.isLt, dite_true, Vector.get_eq_getElem]

theorem BootParams.byteAt_initMem (b : BootParams) {a : Addr} (h : 80 ≤ a.toNat) : b.byteAt a = b.initMem a :=
  dif_neg h.not_gt

theorem BootParams.reference_byteAt (a : Addr) : BootParams.reference.byteAt a = Memory.unlisted a.toNat := rfl

/-- A canonical memory that reads as unlisted everywhere lists no cell: a first cell would be read back. -/
theorem Memory.eq_nil_of_read_unlisted {m : Memory} (hwf : m.wf) (h : ∀ a, m.read a = Memory.unlisted a.toNat) :
    m = [] := by
  cases m with
  | nil => rfl
  | cons c cs =>
    obtain ⟨hlt, hne⟩ := hwf.2 c List.mem_cons_self
    have hc : (BitVec.ofNat 12 c.1).toNat = c.1 := toNat_ofNat_of_lt_memSize hlt
    have hread := h (BitVec.ofNat 12 c.1)
    rw [Memory.read, hc, Memory.find, if_pos rfl, Option.getD_some] at hread
    exact absurd hread hne

theorem createMemory_reference : createMemory BootParams.reference = [] :=
  Memory.eq_nil_of_read_unlisted (createMemory_wf _) fun a =>
    (createMemory_read _ a).trans (BootParams.reference_byteAt a)

/-! ### The state in which wakeup 0 begins, or the error (R66, R179) -/

/-- The state of R179 over a loaded memory: reset but for what the parameters and the outside world give. -/
def BootParams.start (b : BootParams) (p : Params) (world : Inputs) (m : Memory) : State :=
  { State.reset with
    mem := m, v := b.regs, i := b.index, dt := b.delay, st := b.sound, params := p, inputs := world }

section
variable {b : BootParams} {p : Params} {world : Inputs} {bytes : List Byte} (hp : wellFormedParams p = true)
include hp

theorem boot_of_load_ok {m : Memory} (h : loadProgram (createMemory b) bytes = .ok m) :
    boot b p world (some bytes) = .ok (b.start p world m) := by
  simp [boot, hp, h, BootParams.start]

theorem boot_of_load_error {e : LoadError} (h : loadProgram (createMemory b) bytes = .error e) :
    boot b p world (some bytes) = .error (.load e) := by
  simp [boot, hp, h]

theorem boot_none : boot b p world none = .error (.load .programReadFailure) := by
  simp [boot, hp]
end

end Sys2Proof.Machine

open Sys2Proof Sys2Proof.Machine

/-- Settles O9: what the loader does to the created memory (O8) is what start-up does, and every other part of the state
is the one start-up was given or reset's. The FONT lies below the program. -/
theorem startUpSequence : Obligations.StartUpSequence := by
  intro b p world hp
  refine ⟨fun bytes hlen => ?_, boot_none hp, fun bytes hlen =>
    boot_of_load_error hp ((loaderCopiesTheImage (createMemory b) bytes).2 hlen)⟩
  obtain ⟨m, hload, hinside, houtside⟩ := (loaderCopiesTheImage (createMemory b) bytes).1 hlen
  have hread (a : Addr) (ha : a.toNat < 0x200 ∨ 0x200 + bytes.length ≤ a.toNat) : m.read a = b.byteAt a :=
    (houtside a ha).trans (createMemory_read b a)
  have hfont (k : Fin 80) : m.read (BitVec.ofNat 12 k.val) = b.font.get k := by
    have hk : (BitVec.ofNat 12 k.val).toNat = k.val := toNat_ofNat_of_lt_memSize (by omega)
    exact (hread _ (.inl (by omega))).trans (b.byteAt_font k)
  exact ⟨b.start p world m, boot_of_load_ok hp hload, rfl, fun _ => rfl, rfl, rfl, rfl, rfl, rfl, rfl, rfl, rfl, rfl,
    rfl, rfl, rfl, rfl, hfont, hinside, fun a hfree ha => (hread a ha).trans (b.byteAt_initMem hfree)⟩

/-- Settles O10: the reference FONT and INIT_MEM are what unlisted addresses read as, so the created memory lists none,
and an image of no bytes leaves it so. -/
theorem resetIsReferenceStartUp : Obligations.ResetIsReferenceStartUp :=
  boot_of_load_ok rfl (congrArg (loadProgram · []) createMemory_reference)
end
